-- ==== Sys2Proof/Word.lean ====
section
/-! DEFINITION. The word and byte types of the engine, and its two plain groupings of words
(00_scope.md R6, R7; 40_primitives.md R84). Bit 0 is the least significant bit. -/

namespace Sys2Proof

/-- A `u64` (R7): every accumulator, digest, command word, address and length (R6 `W`). -/
abbrev Word := BitVec 64

/-- One byte of the data memory (20_memory.md R40). -/
abbrev Byte := BitVec 8

/-- A 128-bit lane (R84): the ordered pair `(x, y)`, `x` being element 0. -/
structure Lane where
  x : Word
  y : Word
deriving DecidableEq, Repr

/-- Four 64-bit words, element 0 first: a seed (R6 `SEED`) or the key schedule (`PI_KEYS`). -/
structure Quad where
  w0 : Word
  w1 : Word
  w2 : Word
  w3 : Word
deriving DecidableEq, Repr

end Sys2Proof
end

