-- ==== Sys2Proof/Syntax.lean ====
section
/-! DEFINITION. The command set: one constructor of `Instr` per row of the opcode table
(30_encoding.md R72), with the payload words of R62 as its operands. -/

namespace Sys2Proof

/-- `ALG` values (R64): 0 = FNV1A, 1 = AHASH. -/
inductive Alg where
  | fnv1a
  | ahash
deriving DecidableEq, Repr

/-- `OP` values (R65). -/
inductive Op where
  | init
  | absorbBytes
  | absorbChunk
  | finish
deriving DecidableEq, Repr

/-- `ETYPE` values (R66), in the order of their codes 0 to 11. -/
inductive EType where
  | u8
  | u16
  | u32
  | u64
  | i8
  | i16
  | i32
  | i64
  | f16
  | bf16
  | f32
  | f64
deriving DecidableEq, Repr

/-- A command (R72). `nlog` is NLOG, 0 to 6 (R67); `es` holds the chunk's payload words. -/
inductive Instr where
  | initFnv (s0 s1 s2 s3 : Word)
  | absorbBytesFnv (ptr len : Word)
  | absorbChunkFnv (t : EType) (nlog : Fin 7) (es : List Word)
  | finishFnv
  | initAh (s0 s1 s2 s3 : Word)
  | absorbBytesAh (ptr len : Word)
  | absorbChunkAh (t : EType) (nlog : Fin 7) (es : List Word)
  | finishAh
deriving DecidableEq, Repr

end Sys2Proof
end

