-- ==== Sys2Proof/Machine/Elements.lean ====
section
/-! DEFINITION. The widths and kinds of the chunk element types (30_encoding.md R66, R67). -/

namespace Sys2Proof

/-- The bit width `w` of an element type (R66). -/
def EType.width : EType → Nat
  | .u8 | .i8 => 8
  | .u16 | .i16 | .f16 | .bf16 => 16
  | .u32 | .i32 | .f32 => 32
  | .u64 | .i64 | .f64 => 64

/-- The signed integer kinds of R66, the ones `CHUNK_SIGNED_EXT` concerns (R87). -/
def EType.isSigned : EType → Bool
  | .i8 | .i16 | .i32 | .i64 => true
  | _ => false

/-- Bits `[63:w]` of the payload word are 0 (R67). -/
def EType.fits (t : EType) (e : Word) : Bool := decide (e.toNat < 2 ^ t.width)

end Sys2Proof
end

