-- ==== Sys2Proof/WellFormed.lean ====
section
/-! DEFINITION. Which terms of `Instr` are commands of the engine: a chunk carries exactly
`N = 2^NLOG` payload words, each below `2^w` (30_encoding.md R67). -/

namespace Sys2Proof

/-- The payload of a chunk is as R67 asks: `N` words, every one an element of the type. -/
def chunkWellFormed (t : EType) (nlog : Fin 7) (es : List Word) : Bool :=
  decide (es.length = 2 ^ nlog.val) && es.all t.fits

/-- A command whose words the encoding admits. -/
def Instr.wellFormed : Instr → Bool
  | .initFnv _ _ _ _ => true
  | .absorbBytesFnv _ _ => true
  | .absorbChunkFnv t nlog es => chunkWellFormed t nlog es
  | .finishFnv => true
  | .initAh _ _ _ _ => true
  | .absorbBytesAh _ _ => true
  | .absorbChunkAh t nlog es => chunkWellFormed t nlog es
  | .finishAh => true

end Sys2Proof
end

