-- ==== Sys2Proof/Decode.lean ====
section
/-! DEFINITION. The decoder (30_encoding.md R60 to R72), total on any list of command words and
rejecting by name, then the encoder written from the same tables. -/

namespace Sys2Proof

/-! ## What a command is: its OP, its ALG, its length -/

/-- The `OP` of a command (R65). -/
def Instr.op : Instr → Op
  | .initFnv _ _ _ _ => .init
  | .absorbBytesFnv _ _ => .absorbBytes
  | .absorbChunkFnv _ _ _ => .absorbChunk
  | .finishFnv => .finish
  | .initAh _ _ _ _ => .init
  | .absorbBytesAh _ _ => .absorbBytes
  | .absorbChunkAh _ _ _ => .absorbChunk
  | .finishAh => .finish

/-- The `ALG` field a command carries (R64, R72). -/
def Instr.alg : Instr → Alg
  | .initFnv _ _ _ _ => .fnv1a
  | .absorbBytesFnv _ _ => .fnv1a
  | .absorbChunkFnv _ _ _ => .fnv1a
  | .finishFnv => .fnv1a
  | .initAh _ _ _ _ => .ahash
  | .absorbBytesAh _ _ => .ahash
  | .absorbChunkAh _ _ _ => .ahash
  | .finishAh => .ahash

/-- `LEN(cmd)` in words (R63): INIT 5, ABSORB_BYTES 3, ABSORB_CHUNK `1 + 2^NLOG`, FINISH 1. -/
def Instr.words : Instr → Nat
  | .initFnv _ _ _ _ => 5
  | .absorbBytesFnv _ _ => 3
  | .absorbChunkFnv _ nlog _ => 1 + 2 ^ nlog.val
  | .finishFnv => 1
  | .initAh _ _ _ _ => 5
  | .absorbBytesAh _ _ => 3
  | .absorbChunkAh _ nlog _ => 1 + 2 ^ nlog.val
  | .finishAh => 1

/-! ## The header word (R61) -/

/-- Bits [3:0]. -/
def opField (w : Word) : BitVec 4 := w.extractLsb' 0 4

/-- Bits [7:4]. -/
def algField (w : Word) : BitVec 4 := w.extractLsb' 4 4

/-- Bits [11:8]. -/
def etypeField (w : Word) : BitVec 4 := w.extractLsb' 8 4

/-- Bits [14:12]. -/
def nlogField (w : Word) : BitVec 3 := w.extractLsb' 12 3

/-- Bits [63:15]. -/
def reservedField (w : Word) : BitVec 49 := w.extractLsb' 15 49

/-- `OP` from its code; `none` for the reserved codes 0x0 and 0x5 to 0xF (R65). -/
def Op.ofCode (c : BitVec 4) : Option Op :=
  match c.toNat with
  | 1 => some .init
  | 2 => some .absorbBytes
  | 3 => some .absorbChunk
  | 4 => some .finish
  | _ => none

/-- The code of an `OP` (R65). -/
def Op.code : Op → BitVec 4
  | .init => 1#4
  | .absorbBytes => 2#4
  | .absorbChunk => 3#4
  | .finish => 4#4

/-- `ALG` from its code; `none` for the reserved codes 2 to 15 (R64). -/
def Alg.ofCode (c : BitVec 4) : Option Alg :=
  match c.toNat with
  | 0 => some .fnv1a
  | 1 => some .ahash
  | _ => none

/-- The code of an `ALG` (R64). -/
def Alg.code : Alg → BitVec 4
  | .fnv1a => 0#4
  | .ahash => 1#4

/-- `ETYPE` from its code; `none` for the reserved codes 12 to 15 (R66). -/
def EType.ofCode (c : BitVec 4) : Option EType :=
  match c.toNat with
  | 0 => some .u8
  | 1 => some .u16
  | 2 => some .u32
  | 3 => some .u64
  | 4 => some .i8
  | 5 => some .i16
  | 6 => some .i32
  | 7 => some .i64
  | 8 => some .f16
  | 9 => some .bf16
  | 10 => some .f32
  | 11 => some .f64
  | _ => none

/-- The code of an `ETYPE` (R66). -/
def EType.code : EType → BitVec 4
  | .u8 => 0#4
  | .u16 => 1#4
  | .u32 => 2#4
  | .u64 => 3#4
  | .i8 => 4#4
  | .i16 => 5#4
  | .i32 => 6#4
  | .i64 => 7#4
  | .f16 => 8#4
  | .bf16 => 9#4
  | .f32 => 10#4
  | .f64 => 11#4

/-- `NLOG` from its code; `none` for the reserved code 7 (R67). -/
def nlogOfCode (c : BitVec 3) : Option (Fin 7) :=
  if h : c.toNat < 7 then some ⟨c.toNat, h⟩ else none

/-- A legal header word. -/
inductive Header where
  | init (a : Alg)
  | absorbBytes (a : Alg)
  | absorbChunk (a : Alg) (t : EType) (nlog : Fin 7)
  | finish (a : Alg)
deriving DecidableEq, Repr

/-- The `OP` of a legal header. -/
def Header.op : Header → Op
  | .init _ => .init
  | .absorbBytes _ => .absorbBytes
  | .absorbChunk _ _ _ => .absorbChunk
  | .finish _ => .finish

/-- The `ALG` of a legal header. -/
def Header.alg : Header → Alg
  | .init a => a
  | .absorbBytes a => a
  | .absorbChunk a _ _ => a
  | .finish a => a

/-- Why a list of words is no command: a reserved `OP`; an illegal field or payload bit; or the words
end before the command does (R70; 60_exceptions.md R126 checks 1, 2, 4 and 5). -/
inductive DecodeError where
  | illegalOp
  | illegalField
  | truncated
deriving DecidableEq, Repr

/-- The words of a command after its header (R62, R63). -/
def Header.payloadWords : Header → Nat
  | .init _ => 4
  | .absorbBytes _ => 2
  | .absorbChunk _ _ nlog => 2 ^ nlog.val
  | .finish _ => 0

/-- A header of a command other than ABSORB_CHUNK: `ETYPE` and `NLOG` must be 0 (R61). -/
def plainHeader (w : Word) (h : Header) : Except DecodeError Header :=
  if etypeField w = 0#4 ∧ nlogField w = 0#3 then .ok h else .error .illegalField

/-- A header of an ABSORB_CHUNK: `ETYPE` 0 to 11 and `NLOG` 0 to 6 (R66, R67). -/
def chunkHeader (w : Word) (a : Alg) : Except DecodeError Header :=
  match EType.ofCode (etypeField w), nlogOfCode (nlogField w) with
  | some t, some n => .ok (.absorbChunk a t n)
  | _, _ => .error .illegalField

/-- Reads a header word (R61, R70): `OP` first, then every other field (R126 checks 1 and 2). -/
def decodeHeader (w : Word) : Except DecodeError Header :=
  match Op.ofCode (opField w) with
  | none => .error .illegalOp
  | some op =>
    match Alg.ofCode (algField w) with
    | none => .error .illegalField
    | some a =>
      if reservedField w ≠ 0#49 then .error .illegalField
      else
        match op with
        | .init => plainHeader w (.init a)
        | .absorbBytes => plainHeader w (.absorbBytes a)
        | .absorbChunk => chunkHeader w a
        | .finish => plainHeader w (.finish a)

/-! ## The payload (R62, R67 to R69) -/

/-- INIT from its seed words (R68). -/
def initInstr (s0 s1 s2 s3 : Word) : Alg → Instr
  | .fnv1a => .initFnv s0 s1 s2 s3
  | .ahash => .initAh s0 s1 s2 s3

/-- ABSORB_BYTES from its span (R69). -/
def absorbBytesInstr (ptr len : Word) : Alg → Instr
  | .fnv1a => .absorbBytesFnv ptr len
  | .ahash => .absorbBytesAh ptr len

/-- ABSORB_CHUNK from its elements (R67). -/
def absorbChunkInstr (t : EType) (nlog : Fin 7) (es : List Word) : Alg → Instr
  | .fnv1a => .absorbChunkFnv t nlog es
  | .ahash => .absorbChunkAh t nlog es

/-- FINISH (R62: no payload). -/
def finishInstr : Alg → Instr
  | .fnv1a => .finishFnv
  | .ahash => .finishAh

/-- Reads the payload of a header from the words after it, giving the command and the words that
follow it. That words are missing is found before any payload bit is looked at (R126, 4 and 5). -/
def decodePayload : Header → List Word → Except DecodeError (Instr × List Word)
  | .init a, s0 :: s1 :: s2 :: s3 :: rest => .ok (initInstr s0 s1 s2 s3 a, rest)
  | .init _, _ => .error .truncated
  | .absorbBytes a, ptr :: len :: rest => .ok (absorbBytesInstr ptr len a, rest)
  | .absorbBytes _, _ => .error .truncated
  | .absorbChunk a t nlog, ws =>
    if ws.length < 2 ^ nlog.val then .error .truncated
    else if (ws.take (2 ^ nlog.val)).all t.fits then
      .ok (absorbChunkInstr t nlog (ws.take (2 ^ nlog.val)) a, ws.drop (2 ^ nlog.val))
    else .error .illegalField
  | .finish a, rest => .ok (finishInstr a, rest)

/-- Reads one command from the front of a list of command words (R60): the command and the words
after it, or the reason why there is none. -/
def decode : List Word → Except DecodeError (Instr × List Word)
  | [] => .error .truncated
  | w :: ws =>
    match decodeHeader w with
    | .ok h => decodePayload h ws
    | .error e => .error e

/-- The command words of a number whose bit 0 is bit 0 of the first word: `count` words from word
`k` on. -/
def wordsOfNat (w : Nat) : Nat → List Word
  | 0 => []
  | count + 1 => BitVec.ofNat 64 w :: wordsOfNat (w >>> 64) count

/-- The longest command is 65 words: a header and 64 elements (R63). -/
def longestCommand : Nat := 65

/-- The words of an instruction of the opcode table: its low `nbits` bits are `w`'s, every bit above
them is 0, up to the longest command. Command words are whole 64-bit values without a byte order
(20_memory.md R44). -/
def tableWords (nbits w : Nat) : List Word := wordsOfNat (w % 2 ^ nbits) longestCommand

/-- The command the decoder reads from an instruction whose bits are `w`, numbered as
spec/opcode_table.json numbers them; `none` where the decoder refuses. -/
def decodeTableWord (nbits w : Nat) : Option Instr :=
  match decode (tableWords nbits w) with
  | .ok (i, _) => some i
  | .error _ => none

/-! ## The encoder -/

/-- A header word from its fields, in the layout of R61. -/
def headerWord (op : BitVec 4) (alg : BitVec 4) (etype : BitVec 4) (nlog : BitVec 3) : Word :=
  0#49 ++ nlog ++ etype ++ alg ++ op

/-- The words of a command, in stream order (R60 to R69). -/
def encode : Instr → List Word
  | .initFnv s0 s1 s2 s3 => [headerWord Op.init.code Alg.fnv1a.code 0#4 0#3, s0, s1, s2, s3]
  | .absorbBytesFnv ptr len => [headerWord Op.absorbBytes.code Alg.fnv1a.code 0#4 0#3, ptr, len]
  | .absorbChunkFnv t nlog es =>
    headerWord Op.absorbChunk.code Alg.fnv1a.code t.code (BitVec.ofNat 3 nlog.val) :: es
  | .finishFnv => [headerWord Op.finish.code Alg.fnv1a.code 0#4 0#3]
  | .initAh s0 s1 s2 s3 => [headerWord Op.init.code Alg.ahash.code 0#4 0#3, s0, s1, s2, s3]
  | .absorbBytesAh ptr len => [headerWord Op.absorbBytes.code Alg.ahash.code 0#4 0#3, ptr, len]
  | .absorbChunkAh t nlog es =>
    headerWord Op.absorbChunk.code Alg.ahash.code t.code (BitVec.ofNat 3 nlog.val) :: es
  | .finishAh => [headerWord Op.finish.code Alg.ahash.code 0#4 0#3]

end Sys2Proof
end

