-- ==== Sys2Proof/Config.lean ====
section
/-! DEFINITION. The fixed values and the named parameters of 00_scope.md R6, and the free values
(constants without a body) that stand for the draws of the spec. -/

namespace Sys2Proof.Config

/-- `MULTIPLE` (R6, fixed): the 64-bit multiplier of the length pre-mix. -/
def multiple : Word := 0x5851F42D4C957F2D#64

/-- `ROT` (R6, fixed): the rotate amount of the large-block update. -/
def rot : Nat := 23

/-- `OFFSET_BASIS` (R6, fixed): the initial FNV-1a value. -/
def offsetBasis : Word := 0xCBF29CE484222325#64

/-- `PRIME` (R6, fixed): the FNV-1a prime. -/
def prime : Word := 0x00000100000001B3#64

/-- `AHASH_CHUNK_MODE` (R6, 92_eei_decisions.md D10). -/
inductive ChunkMode where
  | pairwise
  | refuse
deriving DecidableEq, Repr

/-- `CHUNK_SIGNED_EXT` (R6, 92_eei_decisions.md D12). -/
inductive SignedExt where
  | sign
  | zero
deriving DecidableEq, Repr

/-- The named parameters of R6 that are values of the hardware. They stand in State, which no step
changes in this part, so that a statement about every state covers every setting (log 8). -/
structure Params where
  piKeys : Quad
  defaultSeed : Quad
  chunkMode : ChunkMode
  signedExt : SignedExt
deriving DecidableEq, Repr

/-- The defaults of R6. The values of `piKeys` are the spec's, from general knowledge
(93_implementation_defined.md G1; log 19: UNVERIFIED). -/
def defaults : Params where
  piKeys := ⟨0x243F6A8885A308D3#64, 0x13198A2E03707344#64, 0xA4093822299F31D0#64, 0x082EFA98EC4E6C89#64⟩
  defaultSeed := ⟨0#64, 0#64, 0#64, 0#64⟩
  chunkMode := .pairwise
  signedExt := .sign

/-- The `n`-th draw of the instance at a base address: any `u64` (10_state.md R33(a),
20_memory.md R51). A FREE VALUE: nothing constrains it (log 9). -/
opaque draw (base : Word) (n : Nat) : Word

/-- What an accumulator register that holds `none` gives when it is read, by register number and CP.
A FREE VALUE; R9 says that no rule reads such a register (log 1). -/
opaque noneRead (register : Nat) (cp : Word) : Word

/-- What `MemByte` gives at an address the data memory does not hold. A FREE VALUE; R42 says that it
is used only at admitted addresses (log 4). -/
opaque unheldByte (address : Nat) : Byte

end Sys2Proof.Config
end

