-- ==== Sys2Proof/Machine/State.lean ====
section
/-! DEFINITION. The machine's state as plain data (10_state.md R20 to R37), the reasons a host access
can stop, and the state right after reset. -/

namespace Sys2Proof.Machine

/-- `PHASE` (R22). -/
inductive Phase where
  | empty
  | active
  | finished
  | faulted
deriving DecidableEq, Repr

/-- The fault codes 0 to 7 held in `FAULT` (60_exceptions.md R120). -/
inductive FaultCode where
  | noFault
  | illegalOp
  | illegalField
  | truncated
  | sequence
  | algMismatch
  | bounds
  | refused
deriving DecidableEq, Repr

/-- The data memory (20_memory.md R40): the bytes it holds, addresses strictly rising. An address that
is not listed holds no byte: no span over it is admitted (log 3). -/
abbrev Memory := List Host.Cell

/-- One engine instance: its registers (R21 to R30), its command stream (R50), and, marked below, the
model's own fields. -/
structure Instance where
  /-- `BASE` (R6, R31): where the platform put the register block. No command changes it. -/
  base : Word
  /-- `CP` (R21): index of the next command word. -/
  cp : Word
  /-- `PHASE` (R22). -/
  phase : Phase
  /-- `ALG` (R23), or `none`. -/
  alg : Option Alg
  /-- `BUFFER` (R24), or `none`. -/
  buffer : Option Word
  /-- `PAD` (R25), or `none`. -/
  pad : Option Word
  /-- `EK0` (R26), or `none`. -/
  ek0 : Option Word
  /-- `EK1` (R26), or `none`. -/
  ek1 : Option Word
  /-- `VALUE` (R27), or `none`. -/
  value : Option Word
  /-- `DIGEST` (R28), or `none`. -/
  digest : Option Word
  /-- `FAULT` (R29). -/
  fault : FaultCode
  /-- `FAULT_CP` (R30). -/
  faultCp : Word
  /-- The command stream (20_memory.md R50): every word written to `CMD` since reset, in order. -/
  stream : List Word
  /-- The model's own: the stream is the finite one of R50, and no word will follow (log 5). -/
  ended : Bool
  /-- The model's own: header indices of the pending ABSORB_BYTES commands of which the host has
  written a span byte in the window of 20_memory.md R51 (log 10). -/
  spoiled : List Nat
  /-- The model's own: the live hasher's accumulator has been a draw, so that its digest is one
  (20_memory.md R51; log 10). -/
  tainted : Bool
  /-- The model's own: how many draws this instance has made (log 9). -/
  draws : Nat
deriving DecidableEq, Repr

/-- The machine: its parameters (R6), the shared data memory, the instance whose command the next step
runs, and the other instances (R35; log 11). -/
structure State where
  params : Config.Params
  mem : Memory
  inst : Instance
  others : List Instance
deriving DecidableEq, Repr

/-- Why the machine stops with a fault. No command raises one: the faults of 60_exceptions.md are
recorded in `FAULT` and are next states. -/
inductive Fault where
  /-- Raised by a host write to `CMD` that would make a stream of 2^64 words, which
  92_eei_decisions.md D33 does not admit. Safe: the model says nothing of what follows. -/
  | streamTooLong
deriving DecidableEq, Repr

/-- Why the model gives no meaning. Apart from `notModelled`, only the host's port refuses, where
10_state.md R33(b) says that the access has no meaning (log 14). All of them are safe: nothing is
claimed of the access. -/
inductive Refusal where
  /-- Raised by an arm of `exec` that has no meaning yet. Safe. -/
  | notModelled (mnemonic : String)
  /-- Raised by a host access that is not 64 bits wide. Safe. -/
  | badWidth
  /-- Raised by a host access that is not 64-bit aligned in the register block (R31). Safe. -/
  | misaligned
  /-- Raised by a host access to an offset 0x28 to 0x3F. Safe. -/
  | reservedOffset
  /-- Raised by a host write to a read-only register. Safe. -/
  | readOnlyRegister
  /-- Raised by a host read of `CMD`. Safe. -/
  | writeOnlyRegister
  /-- Raised by a host access outside every instance's register block. Safe. -/
  | noSuchRegister
  /-- Raised by a host write to the `CMD` of a stream that was given as a finite list (R50). Safe. -/
  | streamEnded
  /-- Raised when the outside world selects an instance that does not exist. Safe. -/
  | noSuchInstance
deriving DecidableEq, Repr

/-- An instance whose register block is at `base`, right after reset (R36). -/
def Instance.atReset (base : Word) : Instance where
  base := base
  cp := 0#64
  phase := .empty
  alg := none
  buffer := none
  pad := none
  ek0 := none
  ek1 := none
  value := none
  digest := none
  fault := .noFault
  faultCp := 0#64
  stream := []
  ended := false
  spoiled := []
  tainted := false
  draws := 0

/-- The machine right after reset (R36; 70_reset_and_hazards.md R140), with the default parameters of
R6, one instance, and nothing in data memory (logs 3, 8, 11). -/
def State.reset : State where
  params := Config.defaults
  mem := []
  inst := Instance.atReset 0#64
  others := []

end Sys2Proof.Machine
end

