-- ==== Sys2Proof/Machine/Ops.lean ====
section
/-! DEFINITION. The named operations over memory and registers: reading and placing bytes
(20_memory.md), the checks a command passes before it runs (60_exceptions.md R124 to R126), fault
entry (R127) and its one return, reset (R128, R140). -/

namespace Sys2Proof.Machine

/-! ## Data memory -/

/-- The byte held at an address, if the data memory holds one. -/
def Memory.lookup : Memory → Nat → Option Byte
  | [], _ => none
  | (a, b) :: m, k => if k = a then some b else Memory.lookup m k

/-- `MemByte(a)` (R42). At an address that holds no byte it is a free value (log 4). -/
def memByte (m : Memory) (a : Nat) : Byte := (Memory.lookup m a).getD (Config.unheldByte a)

/-- The sum of R43: `MemByte(a + k) * 2^(8k)` over `k` below `n` (the constant factor on the left, see
`foldedMultiply`). -/
def memReadNat (m : Memory) (a : Nat) : Nat → Nat
  | 0 => 0
  | n + 1 => memReadNat m a n + 2 ^ (8 * n) * (memByte m (a + n)).toNat

/-- `MemRead(a, n)` as a `u64` (R43): little-endian. -/
def memRead (m : Memory) (a n : Nat) : Word := BitVec.ofNat 64 (memReadNat m a n)

/-- Puts a byte at an address, keeping the addresses strictly rising. -/
def Memory.place : Memory → Nat → Byte → Memory
  | [], a, b => [(a, b)]
  | (a', b') :: m, a, b =>
    if a < a' then (a, b) :: (a', b') :: m
    else if a = a' then (a, b) :: m
    else (a', b') :: Memory.place m a b

/-- Every listed address is at least `lo` and below 2^64, and the addresses rise strictly. -/
def Memory.risingFrom : Nat → Memory → Bool
  | _, [] => true
  | lo, (a, _) :: m => decide (lo ≤ a) && decide (a < 2 ^ 64) && Memory.risingFrom (a + 1) m

/-- The canonical form: addresses strictly rising and below 2^64. (An unlisted address holds no byte,
so no entry can equal what an unlisted address reads as.) -/
def Memory.wf (m : Memory) : Bool := Memory.risingFrom 0 m

/-- The data memory holds the `n` bytes from `p` on: one walk over its rising addresses. -/
def Memory.holds : Memory → Nat → Nat → Bool
  | _, _, 0 => true
  | [], _, _ + 1 => false
  | (a, _) :: m, p, n + 1 =>
    if a < p then Memory.holds m p (n + 1)
    else if a = p then Memory.holds m (p + 1) n
    else false

/-- The admission of R47, with `ADMITTED(addr, len)` read as R6 says it: the data memory holds bytes
`addr .. addr+len-1` (log 3). The end of the span is computed without wrap. -/
def admitted (m : Memory) (ptr len : Word) : Bool :=
  if len = 0#64 then true
  else if ptr.toNat + len.toNat > 2 ^ 64 then false
  else Memory.holds m ptr.toNat len.toNat

/-! ## Registers -/

/-- Applies a change to the instance a step runs; the rest of the machine stays. -/
def State.mapInst (s : State) (f : Instance → Instance) : State := { s with inst := f s.inst }

/-- The value of an accumulator register; a free value where it holds `none` (R9; log 1). -/
def readReg (c : Instance) (register : Nat) (r : Option Word) : Word :=
  r.getD (Config.noneRead register c.cp)

/-- `CP <- CP + LEN(cmd)` (10_state.md R21). -/
def advance (n : Nat) (c : Instance) : Instance := { c with cp := c.cp + BitVec.ofNat 64 n }

/-! ## Draws (10_state.md R33(a); 20_memory.md R51) -/

/-- The draw the instance makes next. -/
def nextDraw (c : Instance) : Word := Config.draw c.base c.draws

/-- Counts one draw as made. -/
def countDraw (c : Instance) : Instance := { c with draws := c.draws + 1 }

/-- The command at `CP` is an ABSORB_BYTES of which a span byte was written in the window of R51. -/
def spanSpoiled (c : Instance) : Bool := c.spoiled.contains c.cp.toNat

/-- What an ABSORB_BYTES leaves in the accumulator (R51): the computed value, or a draw where its span
was written in the window. -/
def absorbed (c : Instance) (computed : Word) : Word :=
  if spanSpoiled c then nextDraw c else computed

/-- Settles the command's own mark of R51: where its span was spoiled, the draw is counted, the hasher
is tainted, and the mark is taken away. -/
def settleSpan (c : Instance) : Instance :=
  if spanSpoiled c then
    { countDraw c with tainted := true, spoiled := c.spoiled.filter (fun k => k != c.cp.toNat) }
  else c

/-- What a FINISH leaves in `DIGEST` (R51): the computed digest, or a draw for a tainted hasher. -/
def digested (c : Instance) (computed : Word) : Word := if c.tainted then nextDraw c else computed

/-- The hasher ends: a draw made for its digest is counted, and its taint goes with it. -/
def settleHasher (c : Instance) : Instance :=
  if c.tainted then { countDraw c with tainted := false } else c

/-! ## Checks before a command runs (60_exceptions.md R124 to R126) -/

/-- The phase table of R124 for the phases that check a command. -/
def phaseAllows : Phase → Op → Bool
  | .empty, .init => true
  | .finished, .init => true
  | .active, .absorbBytes => true
  | .active, .absorbChunk => true
  | .active, .finish => true
  | _, _ => false

/-- Check 3 of R126: an AHash chunk under `AHASH_CHUNK_MODE = REFUSE`. -/
def refusedCheck (p : Config.Params) (op : Op) (a : Alg) : Option FaultCode :=
  if op = .absorbChunk ∧ a = .ahash ∧ p.chunkMode = .refuse then some .refused else none

/-- Check 5 of R126: a chunk payload word with a bit at or above `w`. (A term that is no command for
another reason, a chunk with another number of words, counts as one too; log 15.) -/
def payloadCheck (i : Instr) : Option FaultCode :=
  if i.wellFormed then none else some .illegalField

/-- Check 6 of R126: the phase does not allow the command. -/
def phaseCheck (c : Instance) (i : Instr) : Option FaultCode :=
  if phaseAllows c.phase i.op then none else some .sequence

/-- Check 7 of R126: R125, the algorithm of the command against the latched one. -/
def algCheck (c : Instance) (i : Instr) : Option FaultCode :=
  if i.op ≠ .init ∧ c.alg ≠ some i.alg then some .algMismatch else none

/-- The span of an ABSORB_BYTES (R69). -/
def spanOf : Instr → Option (Word × Word)
  | .initFnv _ _ _ _ => none
  | .absorbBytesFnv ptr len => some (ptr, len)
  | .absorbChunkFnv _ _ _ => none
  | .finishFnv => none
  | .initAh _ _ _ _ => none
  | .absorbBytesAh ptr len => some (ptr, len)
  | .absorbChunkAh _ _ _ => none
  | .finishAh => none

/-- Check 8 of R126: the span of an ABSORB_BYTES is not admitted (20_memory.md R47). -/
def boundsCheck (m : Memory) (i : Instr) : Option FaultCode :=
  match spanOf i with
  | some (ptr, len) => if admitted m ptr len then none else some .bounds
  | none => none

/-- The first failing check of a whole command, in the order of R126 (checks 3 and 5 to 8; checks 1, 2
and 4 fail before there is a whole command). -/
def failingCheck (i : Instr) (s : State) : Option FaultCode :=
  refusedCheck s.params i.op i.alg
    <|> payloadCheck i
    <|> phaseCheck s.inst i
    <|> algCheck s.inst i
    <|> boundsCheck s.mem i

/-! ## Fault entry and return -/

/-- Fault entry (R127): `FAULT`, `FAULT_CP` and `PHASE` are written, nothing else changes. -/
def takeFault (f : FaultCode) (s : State) : State :=
  s.mapInst fun c => { c with fault := f, faultCp := c.cp, phase := .faulted }

/-- The reset of one instance (R140), the only way out of FAULTED (R128): every register at its value
of 10_state.md R36, the received words discarded. `BASE` is the platform's, and the count of draws
made goes on (log 9). -/
def resetInstance (c : Instance) : Instance := { Instance.atReset c.base with draws := c.draws }

/-! ## Running a command -/

/-- Runs a command: in FAULTED nothing is checked or executed (R124, R127; log 6); the first failing
check faults; otherwise the command has its effect. -/
def attempt (i : Instr) (effect : State → State) (s : State) : Host.Outcome State Fault Refusal :=
  if s.inst.phase = .faulted then .next s
  else
    match failingCheck i s with
    | some f => .next (takeFault f s)
    | none => .next (effect s)

end Sys2Proof.Machine
end

