-- ==== Sys2Proof/Machine/Primitives.lean ====
section
/-! DEFINITION. The datapath primitives that touch no memory (40_primitives.md R80 to R82, R84, R85,
R88) and the FNV-1a step (42_fnv1a.md R111). -/

namespace Sys2Proof.Machine

/-- Byte `k` of a word: bits `[8k+7:8k]`. -/
def byteOf (x : Word) (k : Nat) : Byte := x.extractLsb' (8 * k) 8

/-- `BSWAP64` (R80): byte `k` of the result is byte `7-k` of `x`. -/
def bswap64 (x : Word) : Word :=
  byteOf x 0 ++ byteOf x 1 ++ byteOf x 2 ++ byteOf x 3 ++
    byteOf x 4 ++ byteOf x 5 ++ byteOf x 6 ++ byteOf x 7

/-- `ROTL64` (R81). -/
def rotl64 (x : Word) (r : Nat) : Word :=
  let s := r % 64
  if s = 0 then x else (x <<< s) ||| (x >>> (64 - s))

/-- `FOLDED_MULTIPLY` (R82): the byte-swap formula, not a 128-bit product (90_conflicts.md C3). Here and
below the factor that may be a constant stands on the left, which Lean's kernel needs (it unfolds a
product along its right factor); wrapping multiplication commutes. -/
def foldedMultiply (a b : Word) : Word :=
  let lo := bswap64 b * a
  let hi := ~~~b * bswap64 a
  lo ^^^ bswap64 hi

/-- Lane XOR (R84), element-wise. -/
def laneXor (l k : Lane) : Lane := ⟨l.x ^^^ k.x, l.y ^^^ k.y⟩

/-- The AHash accumulators as values (10_state.md R24 to R26). -/
structure AHashRegs where
  buffer : Word
  pad : Word
  ek0 : Word
  ek1 : Word
deriving DecidableEq, Repr

/-- `LARGE_UPDATE` (R85): only `BUFFER` is written. -/
def largeUpdate (l : Lane) (h : AHashRegs) : AHashRegs :=
  let l2 := laneXor l ⟨h.ek0, h.ek1⟩
  let combined := foldedMultiply l2.x l2.y
  { h with buffer := rotl64 ((h.buffer + h.pad) ^^^ combined) Config.rot }

/-- `WORD_UPDATE` (R88). -/
def wordUpdate (v : Word) (h : AHashRegs) : AHashRegs :=
  { h with buffer := foldedMultiply (v ^^^ h.buffer) Config.multiple }

/-- The length pre-mix (41_ahash.md R102, step 1). -/
def premix (len : Word) (h : AHashRegs) : AHashRegs :=
  { h with buffer := Config.multiple * (h.buffer + len) }

/-- The digest of AH.FINISH (41_ahash.md R104): the rotate amount is taken before the fold. -/
def ahashDigest (h : AHashRegs) : Word :=
  let rot := h.buffer &&& 63#64
  rotl64 (foldedMultiply h.buffer h.pad) rot.toNat

/-- One FNV-1a step (42_fnv1a.md R111, R112): XOR, then multiply by `PRIME`. -/
def fnvStep (v x : Word) : Word := Config.prime * (v ^^^ x)

end Sys2Proof.Machine
end

