-- ==== Sys2Proof/Machine/Operands.lean ====
section
/-! DEFINITION. The operand forms: chunk elements widened to 64 bits (40_primitives.md R87) and the
lanes read from a span (R83, R86). -/

namespace Sys2Proof.Machine

/-- `zext_64(e, w)` (00_scope.md R9). -/
def zext64 (e : Word) (w : Nat) : Word := (e.setWidth w).setWidth 64

/-- `sext_64(e, w)` (00_scope.md R9). -/
def sext64 (e : Word) (w : Nat) : Word := (e.setWidth w).signExtend 64

/-- `EXT64(e, t)` (R87). -/
def ext64 (mode : Config.SignedExt) (t : EType) (e : Word) : Word :=
  match t.isSigned, mode with
  | true, .sign => sext64 e t.width
  | true, .zero => zext64 e t.width
  | false, _ => zext64 e t.width

/-- The elements of a chunk, widened, in vector index order. -/
def widened (p : Config.Params) (t : EType) (es : List Word) : List Word :=
  es.map (ext64 p.signedExt t)

/-- `MemByte(a)` as a `u64`. -/
def memByte64 (m : Memory) (a : Nat) : Word := (memByte m a).setWidth 64

/-- `READ_SMALL(p, n)` (R83), `n` from 0 to 8. -/
def readSmall (m : Memory) (p n : Nat) : Lane :=
  if n ≥ 4 then ⟨memRead m p 4, memRead m (p + n - 4) 4⟩
  else if n ≥ 2 then ⟨memRead m p 2, memByte64 m (p + n - 1)⟩
  else if n = 1 then ⟨memByte64 m p, memByte64 m p⟩
  else ⟨0#64, 0#64⟩

/-- `READ_LANE16(q)` (R86): the lower address in `x`. -/
def readLane16 (m : Memory) (q : Nat) : Lane := ⟨memRead m q 8, memRead m (q + 8) 8⟩

/-- `READ_PAIR8(p, n)` (R86), `n` from 9 to 16. -/
def readPair8 (m : Memory) (p n : Nat) : Lane := ⟨memRead m p 8, memRead m (p + n - 8) 8⟩

end Sys2Proof.Machine
end

