-- ==== Sys2Proof/Machine/AHash.lean ====
section
/-! DEFINITION. The AHash commands (41_ahash.md): AH.INIT R100, AH.ABSORB_BYTES R102, AH.ABSORB_CHUNK
R103, AH.FINISH R104. -/

namespace Sys2Proof.Machine

/-- The AHash accumulators of an instance, as values. -/
def ahashRegs (c : Instance) : AHashRegs where
  buffer := readReg c 0 c.buffer
  pad := readReg c 1 c.pad
  ek0 := readReg c 2 c.ek0
  ek1 := readReg c 3 c.ek1

/-! ## AH.INIT -/

/-- The effect of AH.INIT (R100): `key = seed XOR PI_KEYS`. -/
def initAhEffect (s0 s1 s2 s3 : Word) (s : State) : State :=
  s.mapInst fun c =>
    advance 5
      { c with
        buffer := some (s0 ^^^ s.params.piKeys.w0)
        pad := some (s1 ^^^ s.params.piKeys.w1)
        ek0 := some (s2 ^^^ s.params.piKeys.w2)
        ek1 := some (s3 ^^^ s.params.piKeys.w3)
        value := none
        digest := none
        alg := some .ahash
        phase := .active
        tainted := false }

/-- `init.ah` (R100). -/
def execInitAh (s0 s1 s2 s3 : Word) (s : State) : Host.Outcome State Fault Refusal :=
  attempt (.initAh s0 s1 s2 s3) (initAhEffect s0 s1 s2 s3) s

/-! ## AH.ABSORB_BYTES -/

/-- The forward scan of R102, step 2: from the cursor `off`, "while more than 16 bytes remain ahead of
the cursor" (90_conflicts.md C4). `fuel` bounds the turns; `n` turns are enough, since the cursor
rises by 16 a turn. -/
def forwardScan (m : Memory) (p n : Nat) : Nat → Nat → AHashRegs → AHashRegs
  | 0, _, h => h
  | fuel + 1, off, h =>
    if n - off > 16 then
      forwardScan m p n fuel (off + 16) (largeUpdate (readLane16 m (p + off)) h)
    else h

/-- Steps 1 to 4 of R102 on the span of `len` bytes at `ptr`. -/
def ahashBytes (m : Memory) (ptr len : Word) (h : AHashRegs) : AHashRegs :=
  let p := ptr.toNat
  let n := len.toNat
  let h1 := premix len h
  if n > 16 then forwardScan m p n n 0 (largeUpdate (readLane16 m (p + n - 16)) h1)
  else if n > 8 then largeUpdate (readPair8 m p n) h1
  else largeUpdate (readSmall m p n) h1

/-- The effect of AH.ABSORB_BYTES (R102); a span written in the window of 20_memory.md R51 leaves a
draw in `BUFFER`. -/
def absorbBytesAhEffect (ptr len : Word) (s : State) : State :=
  s.mapInst fun c =>
    advance 3
      { settleSpan c with
        buffer := some (absorbed c (ahashBytes s.mem ptr len (ahashRegs c)).buffer) }

/-- `absorb.bytes.ah` (R102). -/
def execAbsorbBytesAh (ptr len : Word) (s : State) : Host.Outcome State Fault Refusal :=
  attempt (.absorbBytesAh ptr len) (absorbBytesAhEffect ptr len) s

/-! ## AH.ABSORB_CHUNK -/

/-- Large updates of the element pairs, in vector index order (R103, `N >= 2`). -/
def chunkPairs : List Word → AHashRegs → AHashRegs
  | x :: y :: vs, h => chunkPairs vs (largeUpdate ⟨x, y⟩ h)
  | [_], h => h
  | [], h => h

/-- The mixing of R103 under PAIRWISE: one element is a word update, more are large updates by pairs.
No length is pre-mixed. -/
def ahashChunk (vs : List Word) (h : AHashRegs) : AHashRegs :=
  match vs with
  | [v] => wordUpdate v h
  | vs => chunkPairs vs h

/-- The effect of AH.ABSORB_CHUNK (R103). -/
def absorbChunkAhEffect (t : EType) (nlog : Fin 7) (es : List Word) (s : State) : State :=
  s.mapInst fun c =>
    advance (1 + 2 ^ nlog.val)
      { c with buffer := some (ahashChunk (widened s.params t es) (ahashRegs c)).buffer }

/-- `absorb.chunk.ah` (R103). -/
def execAbsorbChunkAh (t : EType) (nlog : Fin 7) (es : List Word) (s : State) :
    Host.Outcome State Fault Refusal :=
  attempt (.absorbChunkAh t nlog es) (absorbChunkAhEffect t nlog es) s

/-! ## AH.FINISH -/

/-- The effect of AH.FINISH (R104): the digest, then the hasher's state is destroyed. -/
def finishAhEffect (s : State) : State :=
  s.mapInst fun c =>
    advance 1
      { settleHasher c with
        digest := some (digested c (ahashDigest (ahashRegs c)))
        buffer := none
        pad := none
        ek0 := none
        ek1 := none
        phase := .finished }

/-- `finish.ah` (R104). -/
def execFinishAh (s : State) : Host.Outcome State Fault Refusal :=
  attempt .finishAh finishAhEffect s

end Sys2Proof.Machine
end

