-- ==== Sys2Proof/Machine/Fnv.lean ====
section
/-! DEFINITION. The FNV-1a commands (42_fnv1a.md): FNV.INIT R110, FNV.ABSORB_BYTES R111,
FNV.ABSORB_CHUNK R112, FNV.FINISH R113. -/

namespace Sys2Proof.Machine

/-- The FNV-1a accumulator of an instance, as a value. -/
def fnvReg (c : Instance) : Word := readReg c 4 c.value

/-! ## FNV.INIT -/

/-- The effect of FNV.INIT (R110). The seed words are read and ignored (90_conflicts.md C1). -/
def initFnvEffect (s : State) : State :=
  s.mapInst fun c =>
    advance 5
      { c with
        value := some Config.offsetBasis
        buffer := none
        pad := none
        ek0 := none
        ek1 := none
        digest := none
        alg := some .fnv1a
        phase := .active
        tainted := false }

/-- `init.fnv` (R110). -/
def execInitFnv (s0 s1 s2 s3 : Word) (s : State) : Host.Outcome State Fault Refusal :=
  attempt (.initFnv s0 s1 s2 s3) initFnvEffect s

/-! ## FNV.ABSORB_BYTES -/

/-- The loop of R111: one step per byte, in increasing address order. -/
def fnvBytes (m : Memory) : Nat → Nat → Word → Word
  | _, 0, v => v
  | p, n + 1, v => fnvBytes m (p + 1) n (fnvStep v (memByte64 m p))

/-- The effect of FNV.ABSORB_BYTES (R111); a span written in the window of 20_memory.md R51 leaves a
draw in `VALUE`. -/
def absorbBytesFnvEffect (ptr len : Word) (s : State) : State :=
  s.mapInst fun c =>
    advance 3
      { settleSpan c with
        value := some (absorbed c (fnvBytes s.mem ptr.toNat len.toNat (fnvReg c))) }

/-- `absorb.bytes.fnv` (R111). -/
def execAbsorbBytesFnv (ptr len : Word) (s : State) : Host.Outcome State Fault Refusal :=
  attempt (.absorbBytesFnv ptr len) (absorbBytesFnvEffect ptr len) s

/-! ## FNV.ABSORB_CHUNK -/

/-- The loop of R112: one step per element, in vector index order. -/
def fnvChunk : List Word → Word → Word
  | [], v => v
  | x :: xs, v => fnvChunk xs (fnvStep v x)

/-- The effect of FNV.ABSORB_CHUNK (R112). -/
def absorbChunkFnvEffect (t : EType) (nlog : Fin 7) (es : List Word) (s : State) : State :=
  s.mapInst fun c =>
    advance (1 + 2 ^ nlog.val)
      { c with value := some (fnvChunk (widened s.params t es) (fnvReg c)) }

/-- `absorb.chunk.fnv` (R112). -/
def execAbsorbChunkFnv (t : EType) (nlog : Fin 7) (es : List Word) (s : State) :
    Host.Outcome State Fault Refusal :=
  attempt (.absorbChunkFnv t nlog es) (absorbChunkFnvEffect t nlog es) s

/-! ## FNV.FINISH -/

/-- The effect of FNV.FINISH (R113): the digest is `VALUE` unchanged. -/
def finishFnvEffect (s : State) : State :=
  s.mapInst fun c =>
    advance 1
      { settleHasher c with
        digest := some (digested c (fnvReg c))
        value := none
        phase := .finished }

/-- `finish.fnv` (R113). -/
def execFinishFnv (s : State) : Host.Outcome State Fault Refusal :=
  attempt .finishFnv finishFnvEffect s

end Sys2Proof.Machine
end

