-- ==== Sys2Proof/Machine/Dispatch.lean ====
section
/-! DEFINITION. One arm per constructor of `Instr`, each one direct call of its meaning. -/

namespace Sys2Proof.Machine

def exec (i : Instr) (s : State) : Host.Outcome State Fault Refusal :=
  match i with
  | .initFnv s0 s1 s2 s3 => Sys2Proof.Machine.execInitFnv s0 s1 s2 s3 s
  | .absorbBytesFnv ptr len => Sys2Proof.Machine.execAbsorbBytesFnv ptr len s
  | .absorbChunkFnv t nlog es => Sys2Proof.Machine.execAbsorbChunkFnv t nlog es s
  | .finishFnv => Sys2Proof.Machine.execFinishFnv s
  | .initAh s0 s1 s2 s3 => Sys2Proof.Machine.execInitAh s0 s1 s2 s3 s
  | .absorbBytesAh ptr len => Sys2Proof.Machine.execAbsorbBytesAh ptr len s
  | .absorbChunkAh t nlog es => Sys2Proof.Machine.execAbsorbChunkAh t nlog es s
  | .finishAh => Sys2Proof.Machine.execFinishAh s

end Sys2Proof.Machine
end

