-- ==== Sys2Proof/Machine/Fetch.lean ====
section
/-! DEFINITION. Fetching the next command from the stream (20_memory.md R50) and the checks that come
before there is a whole command (60_exceptions.md R126, checks 1 to 5). -/

namespace Sys2Proof.Machine

/-- What the instance finds at `CP`. -/
inductive Fetched where
  /-- Nothing to do: FAULTED, no header word yet, or a command whose last word is still to come. -/
  | idle
  /-- The words at `CP` fail a check before there is a whole command. -/
  | faults (f : FaultCode)
  /-- A whole command. -/
  | command (i : Instr)
deriving DecidableEq, Repr

/-- The words the host has written from index `CP` on. -/
def pendingWords (c : Instance) : List Word := c.stream.drop c.cp.toNat

/-- The fault of a decoding error (R120). -/
def faultOfError : DecodeError → FaultCode
  | .illegalOp => .illegalOp
  | .illegalField => .illegalField
  | .truncated => .truncated

/-- A command whose words are not all there: TRUNCATED in a finite stream, a wait on a live port
(R50, R126 check 4; 92_eei_decisions.md D27; log 5). -/
def missingWords (c : Instance) : Fetched := if c.ended then .faults .truncated else .idle

/-- Checks 4 and 5 of R126 on the words after a legal header, and the command if they pass. -/
def fetchPayload (c : Instance) (h : Header) (ws : List Word) : Fetched :=
  match decodePayload h ws with
  | .ok (i, _) => .command i
  | .error .truncated => missingWords c
  | .error e => .faults (faultOfError e)

/-- Checks 1 to 5 of R126 in their order; the first three need the header word alone (log 12). -/
def fetch (s : State) : Fetched :=
  if s.inst.phase = .faulted then .idle
  else
    match pendingWords s.inst with
    | [] => .idle
    | w :: ws =>
      match decodeHeader w with
      | .error e => .faults (faultOfError e)
      | .ok h =>
        match refusedCheck s.params h.op h.alg with
        | some f => .faults f
        | none => fetchPayload s.inst h ws

/-- A stream with the given words from index `at_` on, as far as they reach, and its own words
elsewhere; words the stream does not have below `at_` are 0. -/
def streamWith (stream : List Word) (at_ : Nat) (ws : List Word) : List Word :=
  stream.take at_ ++ List.replicate (at_ - stream.length) 0#64 ++ ws ++ stream.drop (at_ + ws.length)

end Sys2Proof.Machine
end

