-- ==== Sys2Proof/Machine/Step.lean ====
section
/-! DEFINITION. One step of the engine: the command at `CP` of the instance `inst`, whole and atomic
(20_memory.md R50, R51; 70_reset_and_hazards.md R153). -/

namespace Sys2Proof.Machine

/-- One step. An instance with nothing to execute, one that waits for the rest of a command, and one
that is FAULTED keep all their state (60_exceptions.md R127, R135; log 6). -/
def step (s : State) : Host.Outcome State Fault Refusal :=
  match fetch s with
  | .idle => .next s
  | .faults f => .next (takeFault f s)
  | .command i => exec i s

/-- The state with the words of an instruction of the opcode table standing in the command stream at
`CP`, as if the host had written them to `CMD` (log 7). -/
def State.withFetchWord (s : State) (nbits w : Nat) : State :=
  s.mapInst fun c => { c with stream := streamWith c.stream c.cp.toNat (tableWords nbits w) }

end Sys2Proof.Machine
end

