-- ==== Sys2Proof/Machine/Assembler.lean ====
section
/-! DEFINITION. The assembler syntax (30_encoding.md R73) and the pseudo-instructions (R74). No
behaviour of the engine depends on it (92_eei_decisions.md D30); details in log 17. -/

namespace Sys2Proof.Machine

/-! ## Pseudo-instructions (R74) -/

/-- INIT of an algorithm with the words of a seed. -/
def initWith (a : Alg) (seed : Quad) : Instr := initInstr seed.w0 seed.w1 seed.w2 seed.w3 a

/-- `init.<alg>` without operands (R74): the default seed. -/
def pseudoInit (p : Config.Params) (a : Alg) : List Instr := [initWith a p.defaultSeed]

/-- `hash.bytes.<alg> ptr, len` (R74); the host then reads `DIGESTR`. -/
def pseudoHashBytes (p : Config.Params) (a : Alg) (ptr len : Word) : List Instr :=
  [initWith a p.defaultSeed, absorbBytesInstr ptr len a, finishInstr a]

/-- `hash.bytes ptr, len` (R74): FNV1A is the default hasher. -/
def pseudoHashBytesDefault (p : Config.Params) (ptr len : Word) : List Instr :=
  pseudoHashBytes p .fnv1a ptr len

/-- `absorb.u64.<alg> v` (R74): a chunk of one U64 element. -/
def pseudoAbsorbU64 (a : Alg) (v : Word) : List Instr := [absorbChunkInstr .u64 0 [v] a]

/-! ## Numbers (R73) -/

/-- A number as it is written: with a minus sign, or without. -/
inductive Numeral where
  | plain (n : Nat)
  | minus (n : Nat)
deriving DecidableEq, Repr

/-- The value of a digit in a base up to 16. -/
def digitValue (base : Nat) (c : Char) : Option Nat :=
  let v :=
    if '0' ≤ c ∧ c ≤ '9' then c.toNat - '0'.toNat
    else if 'a' ≤ c ∧ c ≤ 'f' then c.toNat - 'a'.toNat + 10
    else if 'A' ≤ c ∧ c ≤ 'F' then c.toNat - 'A'.toNat + 10
    else 16
  if v < base then some v else none

/-- The value of a row of digits after those that made `acc`. -/
def digitsFrom (base : Nat) : Nat → List Char → Option Nat
  | acc, [] => some acc
  | acc, c :: cs =>
    match digitValue base c with
    | some d => digitsFrom base (acc * base + d) cs
    | none => none

/-- The value of at least one digit. -/
def digits (base : Nat) (cs : List Char) : Option Nat :=
  match cs with
  | [] => none
  | cs => digitsFrom base 0 cs

/-- A number: decimal, `0x` hexadecimal, or a minus sign and decimal (R73). -/
def numeral : List Char → Option Numeral
  | '-' :: cs => (digits 10 cs).map .minus
  | '0' :: 'x' :: cs => (digits 16 cs).map .plain
  | cs => (digits 10 cs).map .plain

/-- An operand of 64 bits: an unsigned number below 2^64 (R73). -/
def wordOperand : Numeral → Option Word
  | .plain n => if n < 2 ^ 64 then some (BitVec.ofNat 64 n) else none
  | .minus _ => none

/-- A chunk element (R73): an unsigned number below `2^w`, or for a signed type a negative number as its
`w`-bit two's-complement pattern. -/
def elementOperand (t : EType) : Numeral → Option Word
  | .plain n => if n < 2 ^ t.width then some (BitVec.ofNat 64 n) else none
  | .minus n =>
    if t.isSigned ∧ 1 ≤ n ∧ n ≤ 2 ^ (t.width - 1) then some (BitVec.ofNat 64 (2 ^ t.width - n)) else none

/-! ## Words of a line -/

/-- Blanks between words. -/
def isBlank (c : Char) : Bool := c == ' ' || c == '\t' || c == '\r'

/-- The text without the blanks at its ends. -/
def trim (cs : List Char) : List Char := ((cs.dropWhile isBlank).reverse.dropWhile isBlank).reverse

/-- The parts of a text between a separating character. -/
def splitAt (sep : Char) : List Char → List (List Char)
  | [] => [[]]
  | c :: cs =>
    if c = sep then [] :: splitAt sep cs
    else
      match splitAt sep cs with
      | [] => [[c]]
      | part :: parts => (c :: part) :: parts

/-- The operands of a line: none, or numbers between commas. -/
def operands (cs : List Char) : Option (List Numeral) :=
  match trim cs with
  | [] => some []
  | cs => (splitAt ',' cs).mapM (fun part => numeral (trim part))

/-- `<alg>` (R73). -/
def algName (cs : List Char) : Option Alg :=
  if cs = "fnv".toList then some .fnv1a else if cs = "ah".toList then some .ahash else none

/-- `<t>` (R73): the lower-case ETYPE name. -/
def etypeName : EType → List Char
  | .u8 => "u8".toList
  | .u16 => "u16".toList
  | .u32 => "u32".toList
  | .u64 => "u64".toList
  | .i8 => "i8".toList
  | .i16 => "i16".toList
  | .i32 => "i32".toList
  | .i64 => "i64".toList
  | .f16 => "f16".toList
  | .bf16 => "bf16".toList
  | .f32 => "f32".toList
  | .f64 => "f64".toList

/-- `<N>` (R73): 1, 2, 4, ..., 64. -/
def countName (nlog : Fin 7) : List Char :=
  match nlog with
  | 0 => "1".toList
  | 1 => "2".toList
  | 2 => "4".toList
  | 3 => "8".toList
  | 4 => "16".toList
  | 5 => "32".toList
  | 6 => "64".toList

/-- Every element type. -/
def etypes : List EType := [.u8, .u16, .u32, .u64, .i8, .i16, .i32, .i64, .f16, .bf16, .f32, .f64]

/-- Every NLOG. -/
def nlogs : List (Fin 7) := [0, 1, 2, 3, 4, 5, 6]

/-- `<t>x<N>` (R73). -/
def chunkShape (cs : List Char) : Option (EType × Fin 7) :=
  etypes.findSome? fun t =>
    nlogs.findSome? fun n =>
      if etypeName t ++ 'x' :: countName n = cs then some (t, n) else none

/-! ## Lines (R73) -/

/-- `init.<alg>` with its four seed words, or without operands the pseudo-instruction of R74. -/
def assembleInit (p : Config.Params) (a : Alg) (ops : List Numeral) : Option (List Instr) :=
  match ops with
  | [] => some (pseudoInit p a)
  | ops =>
    match ops.mapM wordOperand with
    | some [s0, s1, s2, s3] => some [initInstr s0 s1 s2 s3 a]
    | _ => none

/-- The two operands `ptr, len`. -/
def spanOperands (ops : List Numeral) : Option (Word × Word) :=
  match ops.mapM wordOperand with
  | some [ptr, len] => some (ptr, len)
  | _ => none

/-- `absorb.chunk.<alg>.<t>x<N>`: exactly `N` operands follow. -/
def assembleChunk (a : Alg) (t : EType) (n : Fin 7) (ops : List Numeral) : Option (List Instr) :=
  match ops.mapM (elementOperand t) with
  | some es => if es.length = 2 ^ n.val then some [absorbChunkInstr t n es a] else none
  | none => none

/-- A command or pseudo-instruction from the dotted parts of its name and its operands; `none` where the
assembler refuses the line. -/
def assembleCommand (p : Config.Params) (name : List (List Char)) (ops : List Numeral) :
    Option (List Instr) :=
  match name with
  | [m, x] =>
    if m = "init".toList then (algName x).bind fun a => assembleInit p a ops
    else if m = "finish".toList then
      (algName x).bind fun a => if ops.isEmpty then some [finishInstr a] else none
    else if m = "hash".toList ∧ x = "bytes".toList then
      (spanOperands ops).map fun q => pseudoHashBytesDefault p q.1 q.2
    else none
  | [m, x, y] =>
    if m = "absorb".toList ∧ x = "bytes".toList then
      (algName y).bind fun a => (spanOperands ops).map fun q => [absorbBytesInstr q.1 q.2 a]
    else if m = "hash".toList ∧ x = "bytes".toList then
      (algName y).bind fun a => (spanOperands ops).map fun q => pseudoHashBytes p a q.1 q.2
    else if m = "absorb".toList ∧ x = "u64".toList then
      (algName y).bind fun a =>
        match ops.mapM wordOperand with
        | some [v] => some (pseudoAbsorbU64 a v)
        | _ => none
    else none
  | [m, x, y, shape] =>
    if m = "absorb".toList ∧ x = "chunk".toList then
      (algName y).bind fun a => (chunkShape shape).bind fun q => assembleChunk a q.1 q.2 ops
    else none
  | _ => none

/-- One line (R73): a comment starts at `;`; a line without a command gives none. -/
def assembleLine (p : Config.Params) (line : List Char) : Option (List Instr) :=
  let code := trim (line.takeWhile (fun c => c != ';'))
  match code with
  | [] => some []
  | code =>
    let name := code.takeWhile (fun c => !isBlank c)
    (operands (code.drop name.length)).bind fun ops => assembleCommand p (splitAt '.' name) ops

/-- The command words of a list of lines, one command or pseudo-instruction per line (R73, R74). -/
def assemble (p : Config.Params) (lines : List (List Char)) : Option (List Word) :=
  (lines.mapM (assembleLine p)).map fun is => is.flatten.flatMap encode

end Sys2Proof.Machine
end

