-- ==== Sys2Proof/Machine/Flags.lean ====
section
/-! DEFINITION. The engine has no flags and no condition codes (10_state.md R37). Its only status bits
are the fields of `STATUS` (R32), computed here, and the codes they hold. -/

namespace Sys2Proof.Machine

/-- The code of a phase (R22). -/
def phaseCode : Phase → BitVec 2
  | .empty => 0#2
  | .active => 1#2
  | .finished => 2#2
  | .faulted => 3#2

/-- The code of a fault (60_exceptions.md R120). -/
def faultCode : FaultCode → BitVec 4
  | .noFault => 0#4
  | .illegalOp => 1#4
  | .illegalField => 2#4
  | .truncated => 3#4
  | .sequence => 4#4
  | .algMismatch => 5#4
  | .bounds => 6#4
  | .refused => 7#4

/-- The ALG field of `STATUS` (R32): the register when PHASE is ACTIVE, FINISHED or FAULTED; 0 when it
holds `none`, and in EMPTY. -/
def statusAlg (c : Instance) : BitVec 4 :=
  match c.phase, c.alg with
  | .empty, _ => 0#4
  | _, some a => a.code
  | _, none => 0#4

/-- `STATUS` (R32): PHASE [1:0], 0 in [3:2], ALG [7:4], FAULT [11:8], 0 in [63:12]. -/
def statusWord (c : Instance) : Word :=
  0#52 ++ faultCode c.fault ++ statusAlg c ++ 0#2 ++ phaseCode c.phase

/-- `FAULTCP` (R30, R31): `FAULT_CP`, and 0 while `FAULT = 0`. -/
def faultCpWord (c : Instance) : Word := if c.fault = .noFault then 0#64 else c.faultCp

end Sys2Proof.Machine
end

