-- ==== Sys2Proof/Machine/HostPort.lean ====
section
/-! DEFINITION. What the outside world does to the machine, between steps: the host's register block
(10_state.md R31 to R33), the reset inputs (70_reset_and_hazards.md R140), the data memory the host
fills (R142; 20_memory.md R51), the end of a finite stream (R50), and which instance is run next. -/

namespace Sys2Proof.Machine

/-! ## Instances -/

/-- Every instance of the machine, the one a step runs first. -/
def State.instances (s : State) : List Instance := s.inst :: s.others

/-- Replaces the `k`-th instance. -/
def State.setInstance (s : State) : Nat → Instance → State
  | 0, c => { s with inst := c }
  | k + 1, c => { s with others := s.others.set k c }

/-- Brings the `k`-th other instance into `inst`, so that the next step is one of its (R35; log 11). -/
def selectInstance (k : Nat) (s : State) : Host.Outcome State Fault Refusal :=
  match s.others[k]? with
  | some c => .next { s with inst := c, others := s.others.set k s.inst }
  | none => .refused .noSuchInstance

/-! ## The register block (R31) -/

/-- The size of a register block (R31): offsets 0x00 to 0x3F. -/
def blockBytes : Nat := 0x40

/-- The address lies in the instance's register block. -/
def inBlock (addr : Word) (c : Instance) : Bool :=
  decide (c.base.toNat ≤ addr.toNat) && decide (addr.toNat < c.base.toNat + blockBytes)

/-- Which instance's register block an address lies in. -/
def routeAccess (addr : Word) (s : State) : Option Nat := s.instances.findIdx? (inBlock addr)

/-- The registers of the block (R31). -/
inductive HostReg where
  | cmd
  | status
  | faultcp
  | digestr
  | cpr
deriving DecidableEq, Repr

/-- The register at an offset, for an access of a width in bits, or why there is none
(R31, R33(b); log 14). -/
def registerAt (offset width : Nat) : Except Refusal HostReg :=
  if width ≠ 64 then .error .badWidth
  else if offset % 8 ≠ 0 then .error .misaligned
  else
    match offset with
    | 0x00 => .ok .cmd
    | 0x08 => .ok .status
    | 0x10 => .ok .faultcp
    | 0x18 => .ok .digestr
    | 0x20 => .ok .cpr
    | _ => .error .reservedOffset

/-- A read of `DIGESTR`: the digest while FINISHED, else a draw (R33(a)). -/
def readDigest (c : Instance) : Word × Instance :=
  match c.phase, c.digest with
  | .finished, some d => (d, c)
  | _, _ => (nextDraw c, countDraw c)

/-- A host read of a register (R31, R33), and the instance after it. -/
def readRegister (r : HostReg) (c : Instance) : Except Refusal (Word × Instance) :=
  match r with
  | .cmd => .error .writeOnlyRegister
  | .status => .ok (statusWord c, c)
  | .faultcp => .ok (faultCpWord c, c)
  | .digestr => .ok (readDigest c)
  | .cpr => .ok (c.cp, c)

/-- A host read at an absolute address: the word read and the state after it. -/
def hostRead (addr : Word) (width : Nat) (s : State) : Host.Outcome (Word × State) Fault Refusal :=
  match routeAccess addr s with
  | none => .refused .noSuchRegister
  | some k =>
    match s.instances[k]? with
    | none => .refused .noSuchRegister
    | some c =>
      match registerAt (addr.toNat - c.base.toNat) width with
      | .error r => .refused r
      | .ok reg =>
        match readRegister reg c with
        | .error r => .refused r
        | .ok (v, c') => .next (v, s.setInstance k c')

/-- A write to `CMD` (20_memory.md R50): the word is appended to the stream; while FAULTED it is
discarded; a finite stream takes no more words; a stream of 2^64 words is not admitted (D33; log 13). -/
def writeCmd (v : Word) (c : Instance) : Host.Outcome Instance Fault Refusal :=
  if c.phase = .faulted then .next c
  else if c.ended then .refused .streamEnded
  else if c.stream.length + 1 < 2 ^ 64 then .next { c with stream := c.stream ++ [v] }
  else .fault .streamTooLong

/-- A host write to a register (R31, R33). -/
def writeRegister (r : HostReg) (v : Word) (c : Instance) : Host.Outcome Instance Fault Refusal :=
  match r with
  | .cmd => writeCmd v c
  | .status => .refused .readOnlyRegister
  | .faultcp => .refused .readOnlyRegister
  | .digestr => .refused .readOnlyRegister
  | .cpr => .refused .readOnlyRegister

/-- A host write at an absolute address. -/
def hostWrite (addr : Word) (width : Nat) (v : Word) (s : State) : Host.Outcome State Fault Refusal :=
  match routeAccess addr s with
  | none => .refused .noSuchRegister
  | some k =>
    match s.instances[k]? with
    | none => .refused .noSuchRegister
    | some c =>
      match registerAt (addr.toNat - c.base.toNat) width with
      | .error r => .refused r
      | .ok reg =>
        match writeRegister reg v c with
        | .next c' => .next (s.setInstance k c')
        | .fault f => .fault f
        | .refused r => .refused r

/-! ## Data memory (20_memory.md R40, R51) -/

/-- The spans of the whole ABSORB_BYTES commands among the given words, the first word being at index
`at_`: header index, `PTR`, `LEN`. The walk ends at the first word that starts no whole command: there
the instance waits or faults. `fuel` bounds the commands. -/
def pendingSpans : Nat → Nat → List Word → List (Nat × Word × Word)
  | 0, _, _ => []
  | fuel + 1, at_, ws =>
    match decode ws with
    | .error _ => []
    | .ok (i, rest) =>
      let later := pendingSpans fuel (at_ + i.words) rest
      match spanOf i with
      | some (ptr, len) => (at_, ptr, len) :: later
      | none => later

/-- The address lies in the span. -/
def inSpan (a : Nat) (ptr len : Word) : Bool :=
  decide (ptr.toNat ≤ a) && decide (a < ptr.toNat + len.toNat)

/-- Header indices of the pending commands whose span holds the address: the windows of R51 open at
this moment. -/
def openWindows (a : Nat) (c : Instance) : List Nat :=
  ((pendingSpans (pendingWords c).length c.cp.toNat (pendingWords c)).filter
    (fun q => inSpan a q.2.1 q.2.2)).map Prod.fst

/-- Marks the pending commands whose span holds the address (R51; log 10). -/
def noteStore (a : Nat) (c : Instance) : Instance :=
  { c with
    spoiled := c.spoiled ++ (openWindows a c).filter (fun k => !c.spoiled.contains k) }

/-- The host puts a byte into data memory (70_reset_and_hazards.md R142(3)). The address then holds a
byte (log 3); every pending span over it is spoiled (20_memory.md R51). -/
def hostStore (a : Word) (b : Byte) (s : State) : State :=
  { s with
    mem := Memory.place s.mem a.toNat b
    inst := noteStore a.toNat s.inst
    others := s.others.map (noteStore a.toNat) }

/-! ## Reset inputs and the end of a finite stream -/

/-- The reset input of the instance a step runs (R140). -/
def assertReset (s : State) : State := s.mapInst resetInstance

/-- The reset inputs of all instances, tied together (R140). -/
def assertResetAll (s : State) : State :=
  { s with inst := resetInstance s.inst, others := s.others.map resetInstance }

/-- The stream of the instance is given as a finite list: no word follows (20_memory.md R50; log 5). -/
def endStream (s : State) : State := s.mapInst fun c => { c with ended := true }

/-! ## All of it as events -/

/-- What the outside world can do between two steps. -/
inductive HostEvent where
  | write (addr : Word) (width : Nat) (v : Word)
  | read (addr : Word) (width : Nat)
  | store (a : Word) (b : Byte)
  | select (k : Nat)
  | reset
  | resetAll
  | endStream
deriving DecidableEq, Repr

/-- The state after an outside event. -/
def hostAct (e : HostEvent) (s : State) : Host.Outcome State Fault Refusal :=
  match e with
  | .write addr width v => hostWrite addr width v s
  | .read addr width =>
    match hostRead addr width s with
    | .next (_, s') => .next s'
    | .fault f => .fault f
    | .refused r => .refused r
  | .store a b => .next (hostStore a b s)
  | .select k => selectInstance k s
  | .reset => .next (assertReset s)
  | .resetAll => .next (assertResetAll s)
  | .endStream => .next (Sys2Proof.Machine.endStream s)

end Sys2Proof.Machine
end

