-- ==== Sys2Proof/Safety.lean ====
section
/-! DEFINITION. What the rules promise of every state a run can reach, and how a run ends
(70_reset_and_hazards.md R146), in the terms statements use. -/

namespace Sys2Proof.Machine

/-- The AHash accumulators all hold `none`. -/
def Instance.noAhash (c : Instance) : Bool :=
  c.buffer.isNone && c.pad.isNone && c.ek0.isNone && c.ek1.isNone

/-- The AHash accumulators all hold a value. -/
def Instance.fullAhash (c : Instance) : Bool :=
  c.buffer.isSome && c.pad.isSome && c.ek0.isSome && c.ek1.isSome

/-- The accumulators against `ALG` (10_state.md R24 to R27), in every phase. -/
def Instance.algInv (c : Instance) : Bool :=
  match c.alg with
  | none => c.noAhash && c.value.isNone && c.digest.isNone
  | some .fnv1a => c.noAhash
  | some .ahash => c.value.isNone

/-- The registers against `PHASE` (R22 to R28): in EMPTY nothing holds a value; in ACTIVE exactly the
accumulators of the latched algorithm do; in FINISHED exactly the digest does. -/
def Instance.phaseInv (c : Instance) : Bool :=
  match c.phase with
  | .empty => c.alg.isNone && !c.tainted
  | .active =>
    c.digest.isNone &&
      match c.alg with
      | none => false
      | some .fnv1a => c.value.isSome
      | some .ahash => c.fullAhash
  | .finished => c.alg.isSome && c.noAhash && c.value.isNone && c.digest.isSome && !c.tainted
  | .faulted => true

/-- The fault registers against `PHASE` (R29, R30; 60_exceptions.md R127). -/
def Instance.faultInv (c : Instance) : Bool :=
  if c.phase = .faulted then decide (c.fault ≠ .noFault) && decide (c.faultCp = c.cp)
  else decide (c.fault = .noFault) && decide (c.faultCp = 0#64)

/-- `CP` stays within the words written (R21; 20_memory.md R50), of which there are fewer than 2^64
(92_eei_decisions.md D33). -/
def Instance.streamInv (c : Instance) : Bool :=
  decide (c.cp.toNat ≤ c.stream.length) && decide (c.stream.length < 2 ^ 64)

/-- What holds of an instance in every state a run reaches. -/
def Instance.inv (c : Instance) : Bool := c.algInv && c.phaseInv && c.faultInv && c.streamInv

/-- What holds of the machine in every state a run reaches. -/
def State.inv (s : State) : Bool :=
  Memory.wf s.mem && s.inst.inv && s.others.all Instance.inv

/-- A clean end (R146): a finite stream is used up and no command faulted. -/
def cleanEnd (s : State) : Bool :=
  s.inst.ended && decide (s.inst.cp.toNat = s.inst.stream.length) && decide (s.inst.phase ≠ .faulted)

/-- A faulted end (R146), never successful. -/
def faultedEnd (s : State) : Bool := decide (s.inst.phase = .faulted)

/-- The observation of a clean end (R146): `STATUS`, and in FINISHED the digest. -/
def observe (s : State) : Word × Option Word :=
  (statusWord s.inst, if s.inst.phase = .finished then s.inst.digest else none)

/-- The next state of a step, where there is one. -/
def nextState (o : Host.Outcome State Fault Refusal) : Option State :=
  match o with
  | .next s => some s
  | .fault _ => none
  | .refused _ => none

/-- Commands executed one after another, as far as each of them answers a next state. -/
def execAll : List Instr → State → Host.Outcome State Fault Refusal
  | [], s => .next s
  | i :: is, s =>
    match exec i s with
    | .next t => execAll is t
    | .fault f => .fault f
    | .refused r => .refused r

end Sys2Proof.Machine
end

