-- ==== Sys2Proof/Certificates/Slice0/Obligations.lean ====
section
/-! DEFINITION. The statements about the machine, for the provers. Each docstring names the rule of the
spec it formalises, or the log entry of the model's own choice it is about. -/

open Sys2Proof Sys2Proof.Machine

/-! ## Encoding -/

/-- Decoding an encoded well-formed command gives it back, with every operand at every value the
encoding admits, whatever words follow it (30_encoding.md). -/
def Obligations.DecodeOfEncode : Prop :=
  ∀ (i : Instr) (rest : List Word),
    i.wellFormed = true → decode (encode i ++ rest) = .ok (i, rest)

/-- Words that decode to a command are that command's words: it is well-formed, and every bit of the
words is one its encoding gives (30_encoding.md). -/
def Obligations.EncodeOfDecode : Prop :=
  ∀ (ws : List Word) (i : Instr) (rest : List Word),
    decode ws = .ok (i, rest) → i.wellFormed = true ∧ ws = encode i ++ rest

/-- R72: the header words that select each of the eight commands, and no others are legal. -/
def Obligations.HeaderWordsSelectCommands : Prop :=
  ∀ w : Word,
    (decodeHeader w = .ok (.init .fnv1a) ↔ w = 0x0000000000000001#64) ∧
    (decodeHeader w = .ok (.absorbBytes .fnv1a) ↔ w = 0x0000000000000002#64) ∧
    (decodeHeader w = .ok (.finish .fnv1a) ↔ w = 0x0000000000000004#64) ∧
    (decodeHeader w = .ok (.init .ahash) ↔ w = 0x0000000000000011#64) ∧
    (decodeHeader w = .ok (.absorbBytes .ahash) ↔ w = 0x0000000000000012#64) ∧
    (decodeHeader w = .ok (.finish .ahash) ↔ w = 0x0000000000000014#64) ∧
    (∀ (t : EType) (n : Fin 7), decodeHeader w = .ok (.absorbChunk .fnv1a t n) ↔
      w &&& 0xFFFFFFFFFFFF80FF#64 = 0x0000000000000003#64 ∧ etypeField w = t.code ∧
        (nlogField w).toNat = n.val) ∧
    (∀ (t : EType) (n : Fin 7), decodeHeader w = .ok (.absorbChunk .ahash t n) ↔
      w &&& 0xFFFFFFFFFFFF80FF#64 = 0x0000000000000013#64 ∧ etypeField w = t.code ∧
        (nlogField w).toNat = n.val) ∧
    ((∃ h, decodeHeader w = .ok h) ↔
      w = 0x1#64 ∨ w = 0x2#64 ∨ w = 0x4#64 ∨ w = 0x11#64 ∨ w = 0x12#64 ∨ w = 0x14#64 ∨
      ((w &&& 0xFFFFFFFFFFFF80FF#64 = 0x3#64 ∨ w &&& 0xFFFFFFFFFFFF80FF#64 = 0x13#64) ∧
        (etypeField w).toNat ≤ 11 ∧ (nlogField w).toNat ≤ 6))

/-- 30_encoding.md, section 4, and 60_exceptions.md, section 2: exactly the reserved OP values give
ILLEGAL_OP; with a legal OP exactly the reserved values of the other fields give ILLEGAL_FIELD, and so
does a chunk payload bit at or above `w`; a step takes these faults; under REFUSE every `absorb.chunk.ah`
header faults REFUSED. That a step takes a fault of the header as soon as the header word is there, on a
live port too, is the model's choice (log 12). -/
def Obligations.IllegalEncodingsFault : Prop :=
  ∀ w : Word,
    (decodeHeader w = .error .illegalOp ↔ (opField w).toNat = 0 ∨ 5 ≤ (opField w).toNat) ∧
    (decodeHeader w = .error .illegalField ↔
      (1 ≤ (opField w).toNat ∧ (opField w).toNat ≤ 4) ∧
      (2 ≤ (algField w).toNat ∨ reservedField w ≠ 0#49 ∨
        ((opField w).toNat ≠ 3 ∧ (etypeField w ≠ 0#4 ∨ nlogField w ≠ 0#3)) ∨
        ((opField w).toNat = 3 ∧ (12 ≤ (etypeField w).toNat ∨ (nlogField w).toNat = 7)))) ∧
    (∀ (a : Alg) (t : EType) (n : Fin 7) (ws : List Word), 2 ^ n.val ≤ ws.length →
      (decodePayload (.absorbChunk a t n) ws = .error .illegalField ↔
        ∃ e ∈ ws.take (2 ^ n.val), 2 ^ t.width ≤ e.toNat)) ∧
    (∀ (s : State) (ws : List Word), s.inst.phase ≠ .faulted → pendingWords s.inst = w :: ws →
      (decodeHeader w = .error .illegalOp → step s = .next (takeFault .illegalOp s)) ∧
      (decodeHeader w = .error .illegalField → step s = .next (takeFault .illegalField s)) ∧
      (∀ h, decodeHeader w = .ok h → refusedCheck s.params h.op h.alg = none →
        decodePayload h ws = .error .illegalField → step s = .next (takeFault .illegalField s)) ∧
      (∀ (t : EType) (n : Fin 7), decodeHeader w = .ok (.absorbChunk .ahash t n) →
        s.params.chunkMode = .refuse → step s = .next (takeFault .refused s)))

/-- R63: the length of a command is decided from its header alone. -/
def Obligations.CommandLengthFromHeader : Prop :=
  (∀ (w : Word) (ws : List Word) (i : Instr) (rest : List Word), decode (w :: ws) = .ok (i, rest) →
    (∃ h, decodeHeader w = .ok h ∧ i.words = 1 + h.payloadWords) ∧
    ws.length = (i.words - 1) + rest.length ∧ rest = ws.drop (i.words - 1) ∧
    ((opField w).toNat = 1 → i.words = 5) ∧
    ((opField w).toNat = 2 → i.words = 3) ∧
    ((opField w).toNat = 3 →
      i.words = 1 + 2 ^ (nlogField w).toNat ∧ 2 ≤ i.words ∧ i.words ≤ 65) ∧
    ((opField w).toNat = 4 → i.words = 1)) ∧
  (∀ (w : Word) (ws : List Word), ((opField w).toNat = 0 ∨ 5 ≤ (opField w).toNat) →
    decode (w :: ws) = .error .illegalOp ∧
    ∀ s : State, s.inst.phase ≠ .faulted → pendingWords s.inst = w :: ws →
      step s = .next (takeFault .illegalOp s))

/-- The words of 95_test_vectors.md section 2.8 decode to the commands they stand for. -/
def Obligations.SpecWordsDecode : Prop :=
  decode [0x1#64, 1#64, 2#64, 3#64, 4#64] = .ok (.initFnv 1#64 2#64 3#64 4#64, []) ∧
  decode [0x11#64, 1#64, 2#64, 3#64, 4#64] = .ok (.initAh 1#64 2#64 3#64 4#64, []) ∧
  decode [0x2#64, 0x1000#64, 2#64] = .ok (.absorbBytesFnv 0x1000#64 2#64, []) ∧
  decode [0x12#64, 0x2000#64, 17#64] = .ok (.absorbBytesAh 0x2000#64 17#64, []) ∧
  decode [0x2003#64, 0x61#64, 0x62#64, 0x63#64, 0x64#64] =
    .ok (.absorbChunkFnv .u8 2 [0x61#64, 0x62#64, 0x63#64, 0x64#64], []) ∧
  decode [0x2213#64, 1#64, 2#64, 3#64, 4#64] =
    .ok (.absorbChunkAh .u32 2 [1#64, 2#64, 3#64, 4#64], []) ∧
  decode [0x1413#64, 0xFF#64, 1#64] = .ok (.absorbChunkAh .i8 1 [0xFF#64, 1#64], []) ∧
  decode [0xB13#64, 0x8000000000000000#64] =
    .ok (.absorbChunkAh .f64 0 [0x8000000000000000#64], []) ∧
  decode [0x4#64] = .ok (.finishFnv, []) ∧
  decode [0x14#64] = .ok (.finishAh, [])

/-! ## The datapath primitives -/

/-- R43: `MemRead` is little-endian, byte `k` of the value being the byte at `a + k`. -/
def Obligations.MemReadLittleEndian : Prop :=
  ∀ (m : Memory) (a n : Nat), n ∈ [1, 2, 4, 8] →
    (memRead m a n).toNat =
      ((List.range n).map fun k => 2 ^ (8 * k) * (memByte m (a + k)).toNat).sum ∧
    (∀ k < n, (memRead m a n).extractLsb' (8 * k) 8 = memByte m (a + k)) ∧
    (memRead m a n).toNat < 2 ^ (8 * n)

/-- R80: `BSWAP64` reverses the eight bytes. -/
def Obligations.ByteSwapReversesBytes : Prop :=
  (∀ (x : Word) (k : Nat), k < 8 →
    (bswap64 x).extractLsb' (8 * k) 8 = x.extractLsb' (8 * (7 - k)) 8) ∧
  (∀ x : Word, bswap64 (bswap64 x) = x) ∧
  bswap64 0#64 = 0#64 ∧ bswap64 0x0123456789ABCDEF#64 = 0xEFCDAB8967452301#64

/-- R81: `ROTL64` is the left rotate by `r mod 64`, the identity at amount 0. -/
def Obligations.RotateLeftMovesBits : Prop :=
  (∀ (x : Word) (r i : Nat), i < 64 →
    (rotl64 x r).getLsbD i = x.getLsbD ((i + (64 - r % 64)) % 64)) ∧
  (∀ (x : Word) (r : Nat), r % 64 = 0 → rotl64 x r = x) ∧
  (∀ (x : Word) (r : Nat), r % 64 ≠ 0 →
    rotl64 x r = (x <<< (r % 64)) ||| (x >>> (64 - r % 64))) ∧
  rotl64 0x0123456789ABCDEF#64 23 = 0xB3C4D5E6F78091A2#64 ∧
  rotl64 0x8000000000000000#64 23 = 0x0000000000400000#64

/-- R82: `FOLDED_MULTIPLY`, its formula and its corner cases. -/
def Obligations.FoldedMultiplyFormula : Prop :=
  (∀ a b : Word, (foldedMultiply a b).toNat =
    (a.toNat * (bswap64 b).toNat % 2 ^ 64) ^^^
      (bswap64 (BitVec.ofNat 64 ((bswap64 a).toNat * (2 ^ 64 - 1 - b.toNat) % 2 ^ 64))).toNat) ∧
  (∀ b : Word, foldedMultiply 0#64 b = 0#64) ∧
  (∀ a : Word, foldedMultiply a 0#64 =
    bswap64 (BitVec.ofNat 64 ((2 ^ 64 - (bswap64 a).toNat) % 2 ^ 64))) ∧
  foldedMultiply 1#64 0#64 = 0xFF#64 ∧
  foldedMultiply (BitVec.ofNat 64 (2 ^ 64 - 1)) (BitVec.ofNat 64 (2 ^ 64 - 1)) = 1#64 ∧
  foldedMultiply 1#64 1#64 = 0x01000000000000FE#64 ∧
  (∃ a b : Word, foldedMultiply a b ≠ foldedMultiply b a)

/-- R83: `READ_SMALL` by its four branches; it looks at the span's bytes only, and both elements have
bits [63:32] zero. -/
def Obligations.ReadSmallPacksSpan : Prop :=
  ∀ (m : Memory) (p n : Nat), n ≤ 8 →
    (4 ≤ n → readSmall m p n = ⟨memRead m p 4, memRead m (p + n - 4) 4⟩) ∧
    (2 ≤ n → n < 4 → readSmall m p n = ⟨memRead m p 2, (memByte m (p + n - 1)).setWidth 64⟩) ∧
    (n = 1 → readSmall m p n = ⟨(memByte m p).setWidth 64, (memByte m p).setWidth 64⟩) ∧
    (n = 0 → readSmall m p n = ⟨0#64, 0#64⟩) ∧
    (readSmall m p n).x.toNat < 2 ^ 32 ∧ (readSmall m p n).y.toNat < 2 ^ 32 ∧
    (∀ m' : Memory, (∀ k < n, memByte m' (p + k) = memByte m (p + k)) →
      readSmall m' p n = readSmall m p n)

/-- R86: the lane reads, byte by byte, the lower address in element 0. -/
def Obligations.LaneReadsPlaceBytes : Prop :=
  (∀ (m : Memory) (q k : Nat), k < 8 →
    (readLane16 m q).x.extractLsb' (8 * k) 8 = memByte m (q + k) ∧
    (readLane16 m q).y.extractLsb' (8 * k) 8 = memByte m (q + 8 + k)) ∧
  (∀ (m : Memory) (p n k : Nat), 9 ≤ n → n ≤ 16 → k < 8 →
    (readPair8 m p n).x.extractLsb' (8 * k) 8 = memByte m (p + k) ∧
    (readPair8 m p n).y.extractLsb' (8 * k) 8 = memByte m (p + (n - 8) + k))

/-- R85: `LARGE_UPDATE` writes `BUFFER` by its formula and nothing else. -/
def Obligations.LargeUpdateFormula : Prop :=
  (∀ (x y : Word) (h : AHashRegs),
    largeUpdate ⟨x, y⟩ h =
      { h with
        buffer := (((h.buffer + h.pad) ^^^
          foldedMultiply (x ^^^ h.ek0) (y ^^^ h.ek1)).rotateLeft 23) }) ∧
  (∀ (y : Word) (h : AHashRegs),
    (largeUpdate ⟨h.ek0, y⟩ h).buffer = (h.buffer + h.pad).rotateLeft 23) ∧
  (largeUpdate ⟨1#64, 1#64⟩ ⟨0#64, 0#64, 0#64, 0#64⟩).buffer = 0x000000007F008000#64

/-- R87: `EXT64`, bit by bit, the code and the width of each element type being those of the table of
30_encoding.md R66. -/
def Obligations.ElementWideningBits : Prop :=
  (∀ (mode : Config.SignedExt) (t : EType) (e : Word) (i : Nat), i < 64 →
    (ext64 mode t e).getLsbD i =
      if i < t.width then e.getLsbD i
      else (t.isSigned && decide (mode = .sign) && e.getLsbD (t.width - 1))) ∧
  (∀ (mode : Config.SignedExt) (t : EType) (e : Word), t.width = 64 → ext64 mode t e = e) ∧
  (∀ t : EType, t.isSigned = true ↔ t ∈ [EType.i8, .i16, .i32, .i64]) ∧
  ((List.range 16).map fun k => (EType.ofCode (BitVec.ofNat 4 k)).map fun t => (t, t.width)) =
    [some (.u8, 8), some (.u16, 16), some (.u32, 32), some (.u64, 64),
      some (.i8, 8), some (.i16, 16), some (.i32, 32), some (.i64, 64),
      some (.f16, 16), some (.bf16, 16), some (.f32, 32), some (.f64, 64),
      none, none, none, none] ∧
  (∀ t : EType, EType.ofCode t.code = some t) ∧
  ext64 .sign .i8 0xFF#64 = 0xFFFFFFFFFFFFFFFF#64 ∧ ext64 .zero .i8 0xFF#64 = 0xFF#64

/-! ## Fetching and checking -/

/-- A step runs the decoded command: where the words from `CP` on decode to `i`, the step is `exec i`
(20_memory.md, R50: the command whose header word is at `CP`, once all its words are there). -/
def Obligations.StepRunsDecodedCommand : Prop :=
  ∀ (s : State) (i : Instr) (rest : List Word),
    decode (pendingWords s.inst) = .ok (i, rest) → step s = exec i s

/-- 20_memory.md R50 and 92_eei_decisions.md D27: on a live port the instance waits for the rest of a
command; a finite stream that ends inside one faults TRUNCATED. That both kinds of stream are one
machine with a field `ended` is the model's choice (log 5), that a waiting step keeps the state log 6. -/
def Obligations.IncompleteCommandWaitsOrTruncates : Prop :=
  (∀ s : State, pendingWords s.inst = [] → step s = .next s) ∧
  (∀ (s : State) (w : Word) (ws : List Word) (h : Header), s.inst.phase ≠ .faulted →
    pendingWords s.inst = w :: ws → decodeHeader w = .ok h →
    refusedCheck s.params h.op h.alg = none → ws.length < h.payloadWords →
    (s.inst.ended = false → step s = .next s) ∧
    (s.inst.ended = true → step s = .next (takeFault .truncated s)))

/-- 60_exceptions.md, section 2, the check order: the checks of the command at `CP`, in their order, and
that they read nothing but the command's words, `PHASE`, `ALG`, the parameters, `ADMITTED` and the kind
of stream. The model's choices in it: that the field `ended` tells a finite stream, where check 4 faults,
from a live port, where the step waits (log 5), that a waiting step keeps the state (log 6), and that
checks 1 to 3 fire on a live port as soon as the header word is there (log 12). -/
def Obligations.ChecksRunInOrder : Prop :=
  (∀ (s : State) (w : Word) (ws : List Word), s.inst.phase ≠ .faulted →
    pendingWords s.inst = w :: ws →
    (decodeHeader w = .error .illegalOp → step s = .next (takeFault .illegalOp s)) ∧
    (decodeHeader w = .error .illegalField → step s = .next (takeFault .illegalField s)) ∧
    (∀ h, decodeHeader w = .ok h →
      (refusedCheck s.params h.op h.alg = some .refused → step s = .next (takeFault .refused s)) ∧
      (refusedCheck s.params h.op h.alg = none →
        (ws.length < h.payloadWords →
          step s = .next (if s.inst.ended then takeFault .truncated s else s)) ∧
        (h.payloadWords ≤ ws.length →
          (decodePayload h ws = .error .illegalField →
            step s = .next (takeFault .illegalField s)) ∧
          (∀ (i : Instr) (rest : List Word), decode (w :: ws) = .ok (i, rest) →
            (phaseAllows s.inst.phase i.op = false → step s = .next (takeFault .sequence s)) ∧
            (phaseAllows s.inst.phase i.op = true →
              (i.op ≠ .init → s.inst.alg ≠ some i.alg →
                step s = .next (takeFault .algMismatch s)) ∧
              (i.op = .init ∨ s.inst.alg = some i.alg →
                (∀ ptr len, spanOf i = some (ptr, len) → admitted s.mem ptr len = false →
                  step s = .next (takeFault .bounds s)) ∧
                ((∀ ptr len, spanOf i = some (ptr, len) → admitted s.mem ptr len = true) →
                  ∃ t, step s = .next t ∧ t.inst.phase ≠ .faulted ∧ t.inst.fault = s.inst.fault ∧
                    t.inst.cp = s.inst.cp + BitVec.ofNat 64 i.words)))))))) ∧
  (∀ (i : Instr) (s s' : State), s'.params = s.params → s'.inst.phase = s.inst.phase →
    s'.inst.alg = s.inst.alg →
    (∀ ptr len, admitted s'.mem ptr len = admitted s.mem ptr len) →
    failingCheck i s' = failingCheck i s) ∧
  (∀ s s' : State, s'.params = s.params → s'.inst.phase = s.inst.phase →
    pendingWords s'.inst = pendingWords s.inst → s'.inst.ended = s.inst.ended →
    fetch s' = fetch s)

/-- 60_exceptions.md, section 2, the phase table: the outcome of each command in each phase, when every
decode check passes. That a command on a FAULTED instance, which the table says is neither executed nor
checked, answers next with the state kept is the model's choice (log 6). -/
def Obligations.PhaseTable : Prop :=
  ∀ (i : Instr) (s : State), i.wellFormed = true → refusedCheck s.params i.op i.alg = none →
    (s.inst.phase = .empty ∨ s.inst.phase = .finished →
      (i.op = .init → ∃ t, exec i s = .next t ∧ t.inst.phase = .active ∧
        t.inst.fault = s.inst.fault ∧ t.inst.cp = s.inst.cp + 5#64) ∧
      (i.op ≠ .init → exec i s = .next (takeFault .sequence s))) ∧
    (s.inst.phase = .active →
      (i.op = .init → exec i s = .next (takeFault .sequence s)) ∧
      (i.op ≠ .init → s.inst.alg = some i.alg → boundsCheck s.mem i = none →
        ∃ t, exec i s = .next t ∧ t.inst.phase = (if i.op = .finish then .finished else .active) ∧
          t.inst.fault = s.inst.fault ∧ t.inst.cp = s.inst.cp + BitVec.ofNat 64 i.words)) ∧
    (s.inst.phase = .faulted → exec i s = .next s)

/-- R125: a command of another algorithm than the latched one faults; INIT is never compared, it
latches its own. -/
def Obligations.AlgorithmMismatchFaults : Prop :=
  (∀ (i : Instr) (s : State), i.wellFormed = true → refusedCheck s.params i.op i.alg = none →
    s.inst.phase = .active → i.op ≠ .init → s.inst.alg ≠ some i.alg →
    exec i s = .next (takeFault .algMismatch s)) ∧
  (∀ (i : Instr) (s : State) (a : Option Alg), i.op = .init →
    s.inst.phase = .empty ∨ s.inst.phase = .finished →
    ∃ t, exec i { s with inst := { s.inst with alg := a } } = .next t ∧
      t.inst.phase = .active ∧ t.inst.alg = some i.alg)

/-- 20_memory.md R47: when a span is admitted, and the fault when it is not. That `ADMITTED` is read
off the bytes the data memory lists is the model's choice (log 3). -/
def Obligations.SpanOutsideMemoryFaults : Prop :=
  ∀ (s : State) (ptr len : Word), Memory.wf s.mem = true →
    (admitted s.mem ptr len = true ↔
      len = 0#64 ∨ (ptr.toNat + len.toNat ≤ 2 ^ 64 ∧
        ∀ k < len.toNat, (Memory.lookup s.mem (ptr.toNat + k)).isSome = true)) ∧
    (admitted s.mem ptr len = false → s.inst.phase = .active →
      (s.inst.alg = some .fnv1a →
        exec (.absorbBytesFnv ptr len) s = .next (takeFault .bounds s)) ∧
      (s.inst.alg = some .ahash →
        exec (.absorbBytesAh ptr len) s = .next (takeFault .bounds s)))

/-- 41_ahash.md: under `AHASH_CHUNK_MODE = REFUSE` an AHash chunk faults REFUSED, before its payload, the
phase and the algorithm are looked at. -/
def Obligations.RefuseModeFaultsAHashChunks : Prop :=
  ∀ (t : EType) (n : Fin 7) (es : List Word) (s : State), s.params.chunkMode = .refuse →
    s.inst.phase ≠ .faulted →
    exec (.absorbChunkAh t n es) s = .next (takeFault .refused s)

/-- Every step and every command answers a next state: no command stops the model, faults being recorded
in the fault registers (60_exceptions.md, section 3). The model's choices in it: that the step of an
instance which waits, has nothing to execute or is FAULTED answers next with its state kept (log 6; the
spec says that a FAULTED instance goes no further, 93_implementation_defined.md), and that a term which
is no command faults ILLEGAL_FIELD (log 15). -/
def Obligations.EngineNeverStops : Prop :=
  (∀ s : State, ∃ t, step s = .next t) ∧ ∀ (i : Instr) (s : State), ∃ t, exec i s = .next t

/-! ## Faults and reset -/

/-- 60_exceptions.md, section 3, fault entry: a command that fails a check enters the fault, which writes
three registers and nothing else; later commands do not execute, words written to `CMD` are discarded,
the host sees the fault in `STATUS` and `FAULTCP`, and the run's end is no clean one. That a step and a
command of the FAULTED instance answer next with the state kept is the model's choice (log 6). -/
def Obligations.FaultEntryIsPrecise : Prop :=
  ∀ (f : FaultCode) (s : State), f ≠ .noFault →
    takeFault f s =
      { s with inst := { s.inst with fault := f, faultCp := s.inst.cp, phase := .faulted } } ∧
    (∀ i, s.inst.phase ≠ .faulted → failingCheck i s = some f → exec i s = .next (takeFault f s)) ∧
    step (takeFault f s) = .next (takeFault f s) ∧
    cleanEnd (takeFault f s) = false ∧ faultedEnd (takeFault f s) = true ∧
    (∀ i, exec i (takeFault f s) = .next (takeFault f s)) ∧
    (∀ v, s.inst.base.toNat + blockBytes ≤ 2 ^ 64 →
      hostWrite s.inst.base 64 v (takeFault f s) = .next (takeFault f s)) ∧
    (statusWord (takeFault f s).inst).extractLsb' 8 4 = faultCode f ∧
    (statusWord (takeFault f s).inst).extractLsb' 0 2 = 3#2 ∧
    faultCpWord (takeFault f s).inst = s.inst.cp

/-- 60_exceptions.md, section 3, fault return: a FAULTED instance executes nothing, takes no second fault,
and only a reset input changes its fault registers and its phase. The model's choices in it: that
selecting another instance, which leaves the FAULTED one as it is, is an outside event (log 11), that
ending a stream is one (log 5), and that a step of a FAULTED instance answers next (log 6). -/
def Obligations.OnlyResetLeavesFaulted : Prop :=
  ∀ s : State, s.inst.phase = .faulted →
    step s = .next s ∧
    (∀ (e : HostEvent) (t : State), e ≠ .reset → e ≠ .resetAll → (∀ k, e ≠ .select k) →
      hostAct e s = .next t →
      t.inst.phase = .faulted ∧ t.inst.fault = s.inst.fault ∧ t.inst.faultCp = s.inst.faultCp ∧
        t.inst.cp = s.inst.cp ∧ t.inst.stream = s.inst.stream) ∧
    (∀ (k : Nat) (t : State), hostAct (.select k) s = .next t → s.inst ∈ t.others) ∧
    (assertReset s).inst.phase = .empty ∧ (assertReset s).inst.fault = .noFault

/-- R36 and R140: what the reset input leaves in every register of the instance, and that the received
words are discarded. -/
def Obligations.ResetValues : Prop :=
  ∀ s : State,
    (assertReset s).inst.cp = 0#64 ∧ (assertReset s).inst.phase = .empty ∧
    (assertReset s).inst.alg = none ∧ (assertReset s).inst.buffer = none ∧
    (assertReset s).inst.pad = none ∧ (assertReset s).inst.ek0 = none ∧
    (assertReset s).inst.ek1 = none ∧ (assertReset s).inst.value = none ∧
    (assertReset s).inst.digest = none ∧ (assertReset s).inst.fault = .noFault ∧
    (assertReset s).inst.faultCp = 0#64 ∧ (assertReset s).inst.stream = [] ∧
    statusWord (assertReset s).inst = 0#64 ∧
    (∀ v, s.inst.base.toNat + blockBytes ≤ 2 ^ 64 →
      ∃ t, hostWrite s.inst.base 64 v (assertReset s) = .next t ∧ pendingWords t.inst = [v])

/-- R30, with the `FAULT` register beside it: a step writes the fault registers only by taking a fault,
which saves the header index `CP`, and the outside world only by a reset; `FAULTCP` reads 0 while
`FAULT = 0`; both are 0 after reset. -/
def Obligations.FaultRegistersWrittenByFaults : Prop :=
  (∀ s t : State, step s = .next t →
    (t.inst.fault = s.inst.fault ∧ t.inst.faultCp = s.inst.faultCp) ∨
    (∃ f, f ≠ .noFault ∧ s.inst.phase ≠ .faulted ∧ t = takeFault f s ∧
      t.inst.fault = f ∧ t.inst.faultCp = s.inst.cp)) ∧
  (∀ (e : HostEvent) (s t : State), e ≠ .reset → e ≠ .resetAll → (∀ k, e ≠ .select k) →
    hostAct e s = .next t → t.inst.fault = s.inst.fault ∧ t.inst.faultCp = s.inst.faultCp) ∧
  (∀ c : Instance, c.fault = .noFault → faultCpWord c = 0#64) ∧
  (∀ c : Instance, c.fault ≠ .noFault → faultCpWord c = c.faultCp) ∧
  (∀ c : Instance, (resetInstance c).fault = .noFault ∧ (resetInstance c).faultCp = 0#64)

/-! ## The commands -/

/-- AH.INIT (41_ahash.md, pseudocode of AH.INIT) from EMPTY or FINISHED: the whole next state. -/
def Obligations.InitAhCompletes : Prop :=
  ∀ (s : State) (s0 s1 s2 s3 : Word), s.inst.phase = .empty ∨ s.inst.phase = .finished →
    exec (.initAh s0 s1 s2 s3) s = .next { s with inst := { s.inst with
      buffer := some (s0 ^^^ s.params.piKeys.w0)
      pad := some (s1 ^^^ s.params.piKeys.w1)
      ek0 := some (s2 ^^^ s.params.piKeys.w2)
      ek1 := some (s3 ^^^ s.params.piKeys.w3)
      value := none
      digest := none
      alg := some .ahash
      phase := .active
      tainted := false
      cp := s.inst.cp + 5#64 } }

/-- FNV.INIT (42_fnv1a.md, pseudocode of FNV.INIT) from EMPTY or FINISHED: the whole next state, whatever
the seed words are. -/
def Obligations.InitFnvCompletes : Prop :=
  ∀ (s : State) (s0 s1 s2 s3 : Word), s.inst.phase = .empty ∨ s.inst.phase = .finished →
    exec (.initFnv s0 s1 s2 s3) s = .next { s with inst := { s.inst with
      value := some 0xCBF29CE484222325#64
      buffer := none
      pad := none
      ek0 := none
      ek1 := none
      digest := none
      alg := some .fnv1a
      phase := .active
      tainted := false
      cp := s.inst.cp + 5#64 } }

/-- AH.ABSORB_BYTES (41_ahash.md, pseudocode and corner case (b) of AH.ABSORB_BYTES): the length pre-mix,
then large updates over the lanes of the size class, for more than 16 bytes the tail lane and then
exactly `floor((LEN - 1) / 16)` forward blocks; nothing but `BUFFER` and `CP` changes. -/
def Obligations.AbsorbBytesAhCompletes : Prop :=
  ∀ (s : State) (ptr len b p k0 k1 : Word), s.inst.phase = .active → s.inst.alg = some .ahash →
    s.inst.buffer = some b → s.inst.pad = some p → s.inst.ek0 = some k0 → s.inst.ek1 = some k1 →
    s.inst.cp.toNat ∉ s.inst.spoiled → admitted s.mem ptr len = true →
    exec (.absorbBytesAh ptr len) s = .next { s with inst := { s.inst with
      buffer := some
        ((if len.toNat > 16 then
            readLane16 s.mem (ptr.toNat + len.toNat - 16) ::
              (List.range ((len.toNat - 1) / 16)).map
                (fun j => readLane16 s.mem (ptr.toNat + 16 * j))
          else if len.toNat > 8 then [readPair8 s.mem ptr.toNat len.toNat]
          else [readSmall s.mem ptr.toNat len.toNat]).foldl
          (fun h l => largeUpdate l h)
          (⟨0x5851F42D4C957F2D#64 * (b + len), p, k0, k1⟩ : AHashRegs)).buffer
      cp := s.inst.cp + 3#64 } }

/-- FNV.ABSORB_BYTES (42_fnv1a.md, pseudocode of FNV.ABSORB_BYTES): one step per byte in increasing
address order; nothing but `VALUE` and `CP` changes. -/
def Obligations.AbsorbBytesFnvCompletes : Prop :=
  ∀ (s : State) (ptr len v : Word), s.inst.phase = .active → s.inst.alg = some .fnv1a →
    s.inst.value = some v → s.inst.cp.toNat ∉ s.inst.spoiled → admitted s.mem ptr len = true →
    exec (.absorbBytesFnv ptr len) s = .next { s with inst := { s.inst with
      value := some ((List.range len.toNat).foldl
        (fun u k => 0x100000001B3#64 * (u ^^^ (memByte s.mem (ptr.toNat + k)).setWidth 64)) v)
      cp := s.inst.cp + 3#64 } }

/-- AH.ABSORB_CHUNK under PAIRWISE (41_ahash.md, pseudocode of AH.ABSORB_CHUNK): a word update for one
element, large updates of the pairs in order for more; nothing but `BUFFER` and `CP` changes. -/
def Obligations.AbsorbChunkAhCompletes : Prop :=
  ∀ (s : State) (t : EType) (n : Fin 7) (es : List Word) (b p k0 k1 : Word),
    (Instr.absorbChunkAh t n es).wellFormed = true → s.params.chunkMode = .pairwise →
    s.inst.phase = .active → s.inst.alg = some .ahash →
    s.inst.buffer = some b → s.inst.pad = some p → s.inst.ek0 = some k0 → s.inst.ek1 = some k1 →
    exec (.absorbChunkAh t n es) s = .next { s with inst := { s.inst with
      buffer := some
        (if n.val = 0 then
          foldedMultiply (ext64 s.params.signedExt t (es.getD 0 0#64) ^^^ b) 0x5851F42D4C957F2D#64
        else
          ((List.range (2 ^ n.val / 2)).foldl
            (fun h j => largeUpdate
              ⟨ext64 s.params.signedExt t (es.getD (2 * j) 0#64),
                ext64 s.params.signedExt t (es.getD (2 * j + 1) 0#64)⟩ h)
            (⟨b, p, k0, k1⟩ : AHashRegs)).buffer)
      cp := s.inst.cp + BitVec.ofNat 64 (1 + 2 ^ n.val) } }

/-- FNV.ABSORB_CHUNK (42_fnv1a.md, pseudocode of FNV.ABSORB_CHUNK): one step per element in vector index
order, whatever its width; nothing but `VALUE` and `CP` changes. -/
def Obligations.AbsorbChunkFnvCompletes : Prop :=
  ∀ (s : State) (t : EType) (n : Fin 7) (es : List Word) (v : Word),
    (Instr.absorbChunkFnv t n es).wellFormed = true → s.inst.phase = .active →
    s.inst.alg = some .fnv1a → s.inst.value = some v →
    exec (.absorbChunkFnv t n es) s = .next { s with inst := { s.inst with
      value := some ((List.range (2 ^ n.val)).foldl
        (fun u i => 0x100000001B3#64 * (u ^^^ ext64 s.params.signedExt t (es.getD i 0#64))) v)
      cp := s.inst.cp + BitVec.ofNat 64 (1 + 2 ^ n.val) } }

/-- AH.FINISH (41_ahash.md, pseudocode of AH.FINISH): the fold, rotated by the low six bits `BUFFER` had
before it; the hasher's state is destroyed. -/
def Obligations.FinishAhCompletes : Prop :=
  ∀ (s : State) (b p : Word), s.inst.phase = .active → s.inst.alg = some .ahash →
    s.inst.buffer = some b → s.inst.pad = some p → s.inst.tainted = false →
    exec .finishAh s = .next { s with inst := { s.inst with
      digest := some ((foldedMultiply b p).rotateLeft (b.toNat % 64))
      buffer := none
      pad := none
      ek0 := none
      ek1 := none
      phase := .finished
      cp := s.inst.cp + 1#64 } }

/-- FNV.FINISH (42_fnv1a.md, pseudocode of FNV.FINISH): the digest is `VALUE` unchanged. -/
def Obligations.FinishFnvCompletes : Prop :=
  ∀ (s : State) (v : Word), s.inst.phase = .active → s.inst.alg = some .fnv1a →
    s.inst.value = some v → s.inst.tainted = false →
    exec .finishFnv s = .next { s with inst := { s.inst with
      digest := some v
      value := none
      phase := .finished
      cp := s.inst.cp + 1#64 } }

/-- 20_memory.md R51: after an ABSORB_BYTES of which the host wrote a span byte in the window, the
accumulator is a draw, a free value, and the hasher is marked. The marking fields are the model's own
(log 10). -/
def Obligations.SpoiledSpanLeavesDraw : Prop :=
  ∀ (s : State) (ptr len : Word), s.inst.phase = .active → s.inst.cp.toNat ∈ s.inst.spoiled →
    admitted s.mem ptr len = true →
    (s.inst.alg = some .ahash →
      exec (.absorbBytesAh ptr len) s = .next { s with inst := { s.inst with
        buffer := some (Config.draw s.inst.base s.inst.draws)
        draws := s.inst.draws + 1
        tainted := true
        spoiled := s.inst.spoiled.filter (fun k => k != s.inst.cp.toNat)
        cp := s.inst.cp + 3#64 } }) ∧
    (s.inst.alg = some .fnv1a →
      exec (.absorbBytesFnv ptr len) s = .next { s with inst := { s.inst with
        value := some (Config.draw s.inst.base s.inst.draws)
        draws := s.inst.draws + 1
        tainted := true
        spoiled := s.inst.spoiled.filter (fun k => k != s.inst.cp.toNat)
        cp := s.inst.cp + 3#64 } })

/-- 20_memory.md R51: the digest of such a hasher is a draw, whatever it absorbed since; everything else
FINISH does happens (log 10). -/
def Obligations.TaintedHasherDigestIsDraw : Prop :=
  ∀ s : State, s.inst.phase = .active → s.inst.tainted = true →
    (s.inst.alg = some .ahash →
      exec .finishAh s = .next { s with inst := { s.inst with
        digest := some (Config.draw s.inst.base s.inst.draws)
        draws := s.inst.draws + 1
        tainted := false
        buffer := none
        pad := none
        ek0 := none
        ek1 := none
        phase := .finished
        cp := s.inst.cp + 1#64 } }) ∧
    (s.inst.alg = some .fnv1a →
      exec .finishFnv s = .next { s with inst := { s.inst with
        digest := some (Config.draw s.inst.base s.inst.draws)
        draws := s.inst.draws + 1
        tainted := false
        value := none
        phase := .finished
        cp := s.inst.cp + 1#64 } })

/-- R114: the concatenation law of FNV-1a, for any sequence of spans and any one span that holds the
concatenation of their bytes. -/
def Obligations.FnvConcatenationLaw : Prop :=
  ∀ (s : State) (spans : List (Word × Word)) (v : Word), s.inst.phase = .active →
    s.inst.alg = some .fnv1a → s.inst.value = some v → s.inst.spoiled = [] →
    (∀ q ∈ spans, admitted s.mem q.1 q.2 = true) →
    ∃ t, execAll (spans.map fun q => .absorbBytesFnv q.1 q.2) s = .next t ∧
      t.inst.phase = .active ∧
      t.inst.value = some ((spans.flatMap fun q =>
          (List.range q.2.toNat).map fun k => memByte s.mem (q.1.toNat + k)).foldl
        (fun u b => 0x100000001B3#64 * (u ^^^ b.setWidth 64)) v) ∧
      ∀ ptr len : Word, admitted s.mem ptr len = true →
        ((List.range len.toNat).map fun k => memByte s.mem (ptr.toNat + k)) =
          (spans.flatMap fun q =>
            (List.range q.2.toNat).map fun k => memByte s.mem (q.1.toNat + k)) →
        ∃ u, exec (.absorbBytesFnv ptr len) s = .next u ∧ u.inst.value = t.inst.value

/-- 42_fnv1a.md, corner case of FNV.ABSORB_CHUNK: a U8 chunk gives the same `VALUE` as ABSORB_BYTES of
the same bytes. -/
def Obligations.FnvByteChunkEqualsBytes : Prop :=
  ∀ (s : State) (n : Fin 7) (es : List Word) (ptr len v : Word),
    (Instr.absorbChunkFnv .u8 n es).wellFormed = true → s.inst.phase = .active →
    s.inst.alg = some .fnv1a → s.inst.value = some v → s.inst.cp.toNat ∉ s.inst.spoiled →
    admitted s.mem ptr len = true →
    es = ((List.range len.toNat).map fun k => (memByte s.mem (ptr.toNat + k)).setWidth 64) →
    ∃ t u, exec (.absorbChunkFnv .u8 n es) s = .next t ∧
      exec (.absorbBytesFnv ptr len) s = .next u ∧ t.inst.value = u.inst.value

/-- The pseudo-instruction `hash.bytes.<alg>` (30_encoding.md, section 5): INIT with the default seed,
ABSORB_BYTES and FINISH from EMPTY or FINISHED leave the instance FINISHED with the digest of the span. -/
def Obligations.HashBytesGivesDigest : Prop :=
  ∀ (s : State) (ptr len : Word), s.inst.phase = .empty ∨ s.inst.phase = .finished →
    s.inst.spoiled = [] → admitted s.mem ptr len = true →
    (∃ t, execAll (pseudoHashBytes s.params .fnv1a ptr len) s = .next t ∧
      t.inst.phase = .finished ∧ t.inst.cp = s.inst.cp + 9#64 ∧ t.inst.alg = some .fnv1a ∧
      t.inst.digest = some ((List.range len.toNat).foldl
        (fun u k => 0x100000001B3#64 * (u ^^^ (memByte s.mem (ptr.toNat + k)).setWidth 64))
        0xCBF29CE484222325#64)) ∧
    (∃ t, execAll (pseudoHashBytes s.params .ahash ptr len) s = .next t ∧
      t.inst.phase = .finished ∧ t.inst.cp = s.inst.cp + 9#64 ∧ t.inst.alg = some .ahash ∧
      t.inst.digest = some (ahashDigest (ahashBytes s.mem ptr len
        ⟨s.params.defaultSeed.w0 ^^^ s.params.piKeys.w0,
          s.params.defaultSeed.w1 ^^^ s.params.piKeys.w1,
          s.params.defaultSeed.w2 ^^^ s.params.piKeys.w2,
          s.params.defaultSeed.w3 ^^^ s.params.piKeys.w3⟩)))

/-! ## What stays unchanged -/

/-- R56: no command writes the data memory: every address reads as before. -/
def Obligations.NoCommandWritesDataMemory : Prop :=
  (∀ (i : Instr) (s t : State), exec i s = .next t →
    ∀ a, Memory.lookup t.mem a = Memory.lookup s.mem a) ∧
  (∀ s t : State, step s = .next t → ∀ a, Memory.lookup t.mem a = Memory.lookup s.mem a)

/-- The frame of every command (10_state.md, "written by" of each register): which registers a command
that answers a next state leaves as they were. -/
def Obligations.RegistersWrittenByCommands : Prop :=
  ∀ (i : Instr) (s t : State), exec i s = .next t →
    t.mem = s.mem ∧ t.params = s.params ∧ t.others = s.others ∧
    t.inst.base = s.inst.base ∧ t.inst.stream = s.inst.stream ∧ t.inst.ended = s.inst.ended ∧
    (t.inst.phase ≠ .faulted →
      t.inst.fault = s.inst.fault ∧ t.inst.faultCp = s.inst.faultCp ∧
      t.inst.cp = s.inst.cp + BitVec.ofNat 64 i.words) ∧
    (t.inst.phase = .faulted → t.inst.cp = s.inst.cp) ∧
    (i.op ≠ .init → t.inst.alg = s.inst.alg) ∧
    (i.op ≠ .init → i.op ≠ .finish → t.inst.digest = s.inst.digest ∧
      (t.inst.phase = s.inst.phase ∨ t.inst.phase = .faulted)) ∧
    (i.op ≠ .init → i ≠ .finishAh → t.inst.pad = s.inst.pad ∧ t.inst.ek0 = s.inst.ek0 ∧
      t.inst.ek1 = s.inst.ek1) ∧
    (i.op ≠ .init → i.alg = .fnv1a → t.inst.buffer = s.inst.buffer) ∧
    (i.op ≠ .init → i.alg = .ahash → t.inst.value = s.inst.value)

/-- R35: a step of one instance leaves every other instance and the shared data memory as they are, and
what it does does not depend on the other instances. -/
def Obligations.InstancesShareNothing : Prop :=
  ∀ (s t : State) (o : List Instance), step s = .next t →
    t.others = s.others ∧ t.mem = s.mem ∧
    step { s with others := o } = .next { t with others := o }

/-- 20_memory.md R51, "no ordering between instances is observable": a step of one instance and a step
of another give the same machine in either order. That selecting the instance which steps next is an
outside event is the model's choice (log 11). -/
def Obligations.InstanceStepsCommute : Prop :=
  ∀ (s : State) (k : Nat), k < s.others.length →
    ((nextState (step s)).bind fun s1 => (nextState (selectInstance k s1)).bind fun s2 =>
      (nextState (step s2)).bind fun s3 => nextState (selectInstance k s3)) =
    ((nextState (selectInstance k s)).bind fun s1 => (nextState (step s1)).bind fun s2 =>
      (nextState (selectInstance k s2)).bind fun s3 => nextState (step s3)) ∧
    ((nextState (selectInstance k s)).bind fun s1 => nextState (selectInstance k s1)) = some s

/-- 70_reset_and_hazards.md R144: a step against another data memory that holds the same bytes in the
span of the command at `CP` ends in the same state, but for that memory. For a spoiled span or a tainted
hasher (20_memory.md R51) this says that both runs make the same draw, which the spec leaves free: that is
the model's choice, a draw being a function of the base address and the count of draws (log 9), and no
claim about two runs of the hardware may rest on it there. -/
def Obligations.StepDependsOnSpanBytesOnly : Prop :=
  ∀ (s t : State) (m : Memory), Memory.wf s.mem = true → Memory.wf m = true →
    (∀ (i : Instr) (rest : List Word) (ptr len : Word),
      decode (pendingWords s.inst) = .ok (i, rest) → spanOf i = some (ptr, len) →
      ∀ k < len.toNat,
        Memory.lookup m (ptr.toNat + k) = Memory.lookup s.mem (ptr.toNat + k)) →
    step s = .next t → step { s with mem := m } = .next { t with mem := m }

/-! ## The invariant, and how a run ends -/

/-- What the rules promise of every reachable state (10_state.md R22 to R30; 20_memory.md R50) is kept
by every step, from every state that has it. -/
def Obligations.StepKeepsInvariant : Prop :=
  ∀ s t : State, s.inv = true → step s = .next t → t.inv = true

/-- The invariant holds right after reset. -/
def Obligations.ResetMeetsInvariant : Prop := State.reset.inv = true

/-- Every outside event that has a meaning keeps the invariant. -/
def Obligations.HostEventsKeepInvariant : Prop :=
  ∀ (e : HostEvent) (s t : State), s.inv = true → hostAct e s = .next t → t.inv = true

/-- 70_reset_and_hazards.md R146: from every state with the invariant, a finite stream comes to a clean
end or a faulted end within as many steps as it has words left, and stays there. The model's choices in
it: that a finite stream is one whose field `ended` is set (log 5), and that a step at the end answers
next and keeps the state (log 6). -/
def Obligations.FiniteStreamEnds : Prop :=
  ∀ s : State, s.inv = true → s.inst.ended = true →
    ∃ (k : Nat) (t : State), k ≤ s.inst.stream.length - s.inst.cp.toNat ∧
      Sys2Proof.core.run k s = .next t ∧ (cleanEnd t = true ∨ faultedEnd t = true) ∧
      step t = .next t

/-! ## The host's port -/

/-- R32: the fields of `STATUS`, with the codes of PHASE (R22), ALG (30_encoding.md R64) and FAULT
(60_exceptions.md R120) by their numbers, its value after reset, and that it cannot be written. -/
def Obligations.StatusFields : Prop :=
  (∀ c : Instance,
    (statusWord c).extractLsb' 0 2 =
      (match c.phase with | .empty => 0#2 | .active => 1#2 | .finished => 2#2 | .faulted => 3#2) ∧
    (statusWord c).extractLsb' 2 2 = 0#2 ∧
    (c.alg = some .fnv1a → c.phase ≠ .empty → (statusWord c).extractLsb' 4 4 = 0#4) ∧
    (c.alg = some .ahash → c.phase ≠ .empty → (statusWord c).extractLsb' 4 4 = 1#4) ∧
    (c.alg = none → (statusWord c).extractLsb' 4 4 = 0#4) ∧
    (statusWord c).extractLsb' 8 4 =
      (match c.fault with
        | .noFault => 0#4
        | .illegalOp => 1#4
        | .illegalField => 2#4
        | .truncated => 3#4
        | .sequence => 4#4
        | .algMismatch => 5#4
        | .bounds => 6#4
        | .refused => 7#4) ∧
    (statusWord c).extractLsb' 12 52 = 0#52 ∧
    statusWord (resetInstance c) = 0#64) ∧
  (∀ (s : State) (v : Word), s.inst.base.toNat + blockBytes ≤ 2 ^ 64 →
    ∃ r, hostWrite (s.inst.base + 0x08#64) 64 v s = .refused r)

/-- 10_state.md, section 6: what each register of the block reads, what a write to `CMD` does, and that no
access but an aligned 64-bit one to a register that has it is given a meaning. The model's choices in it:
that alignment is judged on the offset in the block, whatever the base (log 14), and the two premises of
the write to `CMD`, a live port (log 5) and room for the word (log 13). -/
def Obligations.RegisterBlockMap : Prop :=
  ∀ s : State, s.inst.base.toNat + blockBytes ≤ 2 ^ 64 →
    (∀ v, s.inst.phase ≠ .faulted → s.inst.ended = false → s.inst.stream.length + 1 < 2 ^ 64 →
      hostWrite s.inst.base 64 v s =
        .next { s with inst := { s.inst with stream := s.inst.stream ++ [v] } }) ∧
    hostRead (s.inst.base + 0x08#64) 64 s = .next (statusWord s.inst, s) ∧
    hostRead (s.inst.base + 0x10#64) 64 s = .next (faultCpWord s.inst, s) ∧
    (∀ d, s.inst.phase = .finished → s.inst.digest = some d →
      hostRead (s.inst.base + 0x18#64) 64 s = .next (d, s)) ∧
    hostRead (s.inst.base + 0x20#64) 64 s = .next (s.inst.cp, s) ∧
    (∀ off : Nat, off < 0x40 → ∀ width v, width ≠ 64 ∨ off % 8 ≠ 0 ∨ 0x28 ≤ off →
      (∃ r, hostRead (s.inst.base + BitVec.ofNat 64 off) width s = .refused r) ∧
      (∃ r, hostWrite (s.inst.base + BitVec.ofNat 64 off) width v s = .refused r)) ∧
    (∃ r, hostRead s.inst.base 64 s = .refused r) ∧
    (∀ off ∈ [0x08, 0x10, 0x18, 0x20], ∀ v,
      ∃ r, hostWrite (s.inst.base + BitVec.ofNat 64 off) 64 v s = .refused r)

/-- 10_state.md, section 6, host access: (a) a read of `DIGESTR` outside FINISHED gives a draw and changes
nothing but the count of draws; (b) the accesses that have no meaning are refused; (c) no host read tells
anything of the accumulators, nor of `ALG` beyond its `STATUS` copy. That the draw is the free value
`Config.draw` at the base address and the count of draws is the model's choice (log 9). -/
def Obligations.HostAccessRules : Prop :=
  (∀ s : State, s.inst.base.toNat + blockBytes ≤ 2 ^ 64 → s.inst.phase ≠ .finished →
    ∃ t, hostRead (s.inst.base + 0x18#64) 64 s = .next (Config.draw s.inst.base s.inst.draws, t) ∧
      t = { s with inst := { s.inst with draws := t.inst.draws } }) ∧
  (∀ (s : State) (v : Word), s.inst.base.toNat + blockBytes ≤ 2 ^ 64 →
    (∃ r, hostRead s.inst.base 64 s = .refused r) ∧
    (∀ off ∈ [0x08, 0x10, 0x18, 0x20],
      ∃ r, hostWrite (s.inst.base + BitVec.ofNat 64 off) 64 v s = .refused r) ∧
    (∀ off < 0x40, ∀ width, width ≠ 64 ∨ 0x28 ≤ off →
      (∃ r, hostRead (s.inst.base + BitVec.ofNat 64 off) width s = .refused r) ∧
      (∃ r, hostWrite (s.inst.base + BitVec.ofNat 64 off) width v s = .refused r))) ∧
  (∀ (s : State) (addr : Word) (width : Nat) (b p k0 k1 u : Option Word) (a : Option Alg),
    statusWord { s.inst with alg := a } = statusWord s.inst →
    (match hostRead addr width { s with inst := { s.inst with
        buffer := b, pad := p, ek0 := k0, ek1 := k1, value := u, alg := a } } with
      | .next (x, _) => Except.ok x
      | .fault _ => Except.error none
      | .refused r => Except.error (some r)) =
    (match hostRead addr width s with
      | .next (x, _) => Except.ok x
      | .fault _ => Except.error none
      | .refused r => Except.error (some r)))

/-- 20_memory.md R50: a word written to `CMD` becomes the last pending word, and is discarded while
FAULTED. That the stream stays below 2^64 words, a longer one not being admitted (92_eei_decisions.md D33),
is the model's choice: such a write has no next state (log 13). -/
def Obligations.CmdWordsAreDeliveredInOrder : Prop :=
  ∀ (c c' : Instance) (v : Word), writeCmd v c = .next c' →
    (c.phase = .faulted → c' = c) ∧
    (c.phase ≠ .faulted → c.cp.toNat ≤ c.stream.length →
      c'.stream = c.stream ++ [v] ∧ pendingWords c' = pendingWords c ++ [v] ∧
        c'.stream[c.stream.length]? = some v ∧ c'.stream.length < 2 ^ 64)

/-- What the host's store does: the byte at its address, every other byte as it was (20_memory.md R40),
and every instance as it was but for its marks. That the address then holds a byte is the model's choice
(log 3), and the marks `spoiled` are the model's own (log 10). -/
def Obligations.HostStorePlacesOneByte : Prop :=
  ∀ (s : State) (a : Word) (b : Byte) (k : Nat),
    Memory.lookup (hostStore a b s).mem k =
      (if k = a.toNat then some b else Memory.lookup s.mem k) ∧
    (hostStore a b s).params = s.params ∧
    (hostStore a b s).inst = { s.inst with spoiled := (hostStore a b s).inst.spoiled } ∧
    (hostStore a b s).others.length = s.others.length ∧
    (∀ (j : Nat) (c : Instance), s.others[j]? = some c →
      ∃ d, (hostStore a b s).others[j]? = some d ∧ d = { c with spoiled := d.spoiled })

/-- 20_memory.md R51: a store into the span of a whole ABSORB_BYTES that has not been passed by `CP`
spoils that command, however many whole commands stand before it; while the last word of the command
at `CP` is not written, no window is open. The marks are the model's own (log 10). -/
def Obligations.HostStoreSpoilsPendingSpans : Prop :=
  (∀ (s : State) (a : Word) (b : Byte) (before : List Instr) (i : Instr) (rest : List Word)
      (ptr len : Word),
    (∀ j ∈ before, j.wellFormed = true) → i.wellFormed = true →
    pendingWords s.inst = before.flatMap encode ++ encode i ++ rest →
    spanOf i = some (ptr, len) → ptr.toNat ≤ a.toNat → a.toNat < ptr.toNat + len.toNat →
    s.inst.cp.toNat + (before.map Instr.words).sum ∈ (hostStore a b s).inst.spoiled) ∧
  (∀ (s : State) (a : Word) (b : Byte) (e : DecodeError),
    decode (pendingWords s.inst) = .error e → (hostStore a b s).inst.spoiled = s.inst.spoiled)

/-! ## The assembler -/

/-- 30_encoding.md, section 5: the assembler gives only commands of the engine; an operand that fits is
taken at its value, an operand that does not fit and a wrong number of operands are refused. How far a
negative element reaches, and that a signed element may also be written as its pattern below `2^w`, is
the model's choice (log 17). -/
def Obligations.AssemblerGivesWellFormed : Prop :=
  (∀ (p : Config.Params) (line : List Char) (is : List Instr),
    assembleLine p line = some is → ∀ i ∈ is, i.wellFormed = true) ∧
  (∀ (t : EType) (n : Nat),
    (n < 2 ^ t.width → ∃ e, elementOperand t (.plain n) = some e ∧ e.toNat = n) ∧
    (2 ^ t.width ≤ n → elementOperand t (.plain n) = none) ∧
    (t.isSigned = true → 1 ≤ n → n ≤ 2 ^ (t.width - 1) →
      ∃ e, elementOperand t (.minus n) = some e ∧ e.toNat = 2 ^ t.width - n) ∧
    (t.isSigned = false ∨ 2 ^ (t.width - 1) < n → elementOperand t (.minus n) = none)) ∧
  (∀ n : Nat,
    (n < 2 ^ 64 → ∃ w, wordOperand (.plain n) = some w ∧ w.toNat = n) ∧
    (2 ^ 64 ≤ n → wordOperand (.plain n) = none) ∧ wordOperand (.minus n) = none) ∧
  (∀ (a : Alg) (t : EType) (n : Fin 7) (ops : List Numeral),
    (ops.length ≠ 2 ^ n.val → assembleChunk a t n ops = none) ∧
    ((∃ o ∈ ops, elementOperand t o = none) → assembleChunk a t n ops = none) ∧
    (∀ es, ops.map (elementOperand t) = es.map some → es.length = 2 ^ n.val →
      assembleChunk a t n ops = some [absorbChunkInstr t n es a])) ∧
  (∀ (p : Config.Params) (x : List Char) (a : Alg) (ops : List Numeral), algName x = some a →
    (∀ (shape : List Char) (t : EType) (n : Fin 7), chunkShape shape = some (t, n) →
      assembleCommand p ["absorb".toList, "chunk".toList, x, shape] ops = assembleChunk a t n ops) ∧
    (ops.length ≠ 0 → ops.length ≠ 4 → assembleCommand p ["init".toList, x] ops = none) ∧
    (ops.length ≠ 2 → assembleCommand p ["absorb".toList, "bytes".toList, x] ops = none) ∧
    (ops.length ≠ 0 → assembleCommand p ["finish".toList, x] ops = none))

/-- Assembly lines of 95_test_vectors.md and the pseudo-instructions of 30_encoding.md, section 5. -/
def Obligations.AssemblyExamples : Prop :=
  assembleLine Config.defaults "init.fnv 0,0,0,0".toList =
    some [.initFnv 0#64 0#64 0#64 0#64] ∧
  assembleLine Config.defaults "absorb.bytes.ah 0x2000, 17 ; P2".toList =
    some [.absorbBytesAh 0x2000#64 17#64] ∧
  assembleLine Config.defaults "absorb.chunk.ah.i8x2 -1, 1".toList =
    some [.absorbChunkAh .i8 1 [0xFF#64, 1#64]] ∧
  assembleLine Config.defaults "absorb.chunk.fnv.u8x1 256".toList = none ∧
  assembleLine Config.defaults "hash.bytes 0x1000, 4".toList =
    some [.initFnv 0#64 0#64 0#64 0#64, .absorbBytesFnv 0x1000#64 4#64, .finishFnv] ∧
  assembleLine Config.defaults "absorb.u64.ah 5".toList = some [.absorbChunkAh .u64 0 [5#64]]
end

