-- ==== Sys2Proof/Laws/Decode.lean ====
section
/-! SUPPORT. The fields of a header word, and the codes of OP, ALG, ETYPE and NLOG against their
readers. -/

namespace Sys2Proof

/-! ## Codes -/

@[simp] theorem Op.ofCode_code (o : Op) : Op.ofCode o.code = some o := by cases o <;> rfl

@[simp] theorem Alg.ofCode_code (a : Alg) : Alg.ofCode a.code = some a := by cases a <;> rfl

@[simp] theorem EType.ofCode_code (t : EType) : EType.ofCode t.code = some t := by cases t <;> rfl

@[simp] theorem nlogOfCode_ofNat (n : Fin 7) : nlogOfCode (BitVec.ofNat 3 n.val) = some n := by
  revert n; decide

theorem Op.code_of_ofCode {c : BitVec 4} {o : Op} (h : Op.ofCode c = some o) : o.code = c := by
  revert c o; decide

theorem Alg.code_of_ofCode {c : BitVec 4} {a : Alg} (h : Alg.ofCode c = some a) : a.code = c := by
  revert c; cases a <;> decide

theorem EType.code_of_ofCode {c : BitVec 4} {t : EType} (h : EType.ofCode c = some t) :
    t.code = c := by
  revert c; cases t <;> decide

theorem nlogOfCode_val {c : BitVec 3} {n : Fin 7} (h : nlogOfCode c = some n) :
    BitVec.ofNat 3 n.val = c := by
  revert c n; decide

/-! ## Fields of a header word (R61) -/

variable (o a t : BitVec 4) (n : BitVec 3)

theorem headerWord_toNat : (headerWord o a t n).toNat =
    o.toNat + 2 ^ 4 * a.toNat + 2 ^ 8 * t.toNat + 2 ^ 12 * n.toNat := by
  have join {x y k : Nat} (h : y < 2 ^ k) : x <<< k ||| y = x * 2 ^ k + y := by
    rw [← Nat.shiftLeft_add_eq_or_of_lt h, Nat.shiftLeft_eq]
  simp only [headerWord, BitVec.toNat_append, BitVec.toNat_ofNat]
  rw [join n.isLt, join t.isLt, join a.isLt, join o.isLt]
  omega

@[simp] theorem opField_headerWord : opField (headerWord o a t n) = o := by
  apply BitVec.eq_of_toNat_eq
  have := o.isLt
  simp only [opField, BitVec.extractLsb'_toNat, headerWord_toNat, Nat.shiftRight_eq_div_pow]
  omega

@[simp] theorem algField_headerWord : algField (headerWord o a t n) = a := by
  apply BitVec.eq_of_toNat_eq
  have := o.isLt
  have := a.isLt
  simp only [algField, BitVec.extractLsb'_toNat, headerWord_toNat, Nat.shiftRight_eq_div_pow]
  omega

@[simp] theorem etypeField_headerWord : etypeField (headerWord o a t n) = t := by
  apply BitVec.eq_of_toNat_eq
  have := o.isLt
  have := a.isLt
  have := t.isLt
  simp only [etypeField, BitVec.extractLsb'_toNat, headerWord_toNat, Nat.shiftRight_eq_div_pow]
  omega

@[simp] theorem nlogField_headerWord : nlogField (headerWord o a t n) = n := by
  apply BitVec.eq_of_toNat_eq
  have := o.isLt
  have := a.isLt
  have := t.isLt
  have := n.isLt
  simp only [nlogField, BitVec.extractLsb'_toNat, headerWord_toNat, Nat.shiftRight_eq_div_pow]
  omega

@[simp] theorem reservedField_headerWord : reservedField (headerWord o a t n) = 0#49 := by
  apply BitVec.eq_of_toNat_eq
  have := o.isLt
  have := a.isLt
  have := t.isLt
  have := n.isLt
  simp only [reservedField, BitVec.extractLsb'_toNat, headerWord_toNat, Nat.shiftRight_eq_div_pow,
    BitVec.toNat_ofNat]
  omega

/-- A word whose reserved bits are 0 is the header word of its fields. -/
theorem headerWord_fields {w : Word} (h : reservedField w = 0#49) :
    headerWord (opField w) (algField w) (etypeField w) (nlogField w) = w := by
  have hr := congrArg BitVec.toNat h
  simp only [reservedField, BitVec.extractLsb'_toNat, Nat.shiftRight_eq_div_pow,
    BitVec.toNat_ofNat] at hr
  apply BitVec.eq_of_toNat_eq
  have := w.isLt
  rw [headerWord_toNat]
  simp only [opField, algField, etypeField, nlogField, BitVec.extractLsb'_toNat,
    Nat.shiftRight_eq_div_pow]
  omega

end Sys2Proof
end

