-- ==== Sys2Proof/Laws/HostPort.lean ====
section
/-! SUPPORT. What a host access that has a meaning can do, and where an access to the block of the
instance a step runs goes. -/

namespace Sys2Proof.Machine

/-- All that a host write can do: it reaches one instance, and is a write to its `CMD`. -/
theorem hostWrite_cases {addr : Word} {width : Nat} {v : Word} {s t : State}
    (h : hostWrite addr width v s = .next t) :
    ∃ k c c', routeAccess addr s = some k ∧ s.instances[k]? = some c ∧ writeCmd v c = .next c' ∧
      t = s.setInstance k c' := by
  unfold hostWrite at h
  split at h
  · cases h
  rename_i k hk
  split at h
  · cases h
  rename_i c hc
  split at h
  · cases h
  rename_i reg _
  split at h <;> try cases h
  rename_i c' hw
  refine ⟨k, c, c', hk, hc, ?_, rfl⟩
  cases reg <;> simp [writeRegister] at hw
  exact hw

/-- All that a host read can do: it reaches one instance, and reads one of its registers. -/
theorem hostRead_cases {addr : Word} {width : Nat} {x : Word} {s t : State}
    (h : hostRead addr width s = .next (x, t)) :
    ∃ k c c' r, routeAccess addr s = some k ∧ s.instances[k]? = some c ∧
      readRegister r c = .ok (x, c') ∧ t = s.setInstance k c' := by
  unfold hostRead at h
  split at h
  · cases h
  rename_i k hk
  split at h
  · cases h
  rename_i c hc
  split at h
  · cases h
  rename_i reg _
  split at h <;> cases h
  rename_i c' hw
  exact ⟨k, c, c', reg, hk, hc, hw, rfl⟩

/-- A read of a register changes nothing but the count of draws. -/
theorem readRegister_cases {r : HostReg} {c c' : Instance} {x : Word}
    (h : readRegister r c = .ok (x, c')) : c' = c ∨ c' = countDraw c := by
  cases r <;> simp [readRegister] at h
  · exact .inl h.2.symm
  · exact .inl h.2.symm
  · unfold readDigest at h
    split at h <;> injection h with _ h
    · exact .inl h.symm
    · exact .inr h.symm
  · exact .inl h.2.symm

/-- An offset of the block of `inst` is routed to it. -/
theorem routeAccess_block {s : State} {off : Nat} (h : s.inst.base.toNat + blockBytes ≤ 2 ^ 64)
    (ho : off < blockBytes) :
    (s.inst.base + BitVec.ofNat 64 off).toNat - s.inst.base.toNat = off ∧
      routeAccess (s.inst.base + BitVec.ofNat 64 off) s = some 0 := by
  have hb : blockBytes = 64 := rfl
  have ha : (s.inst.base + BitVec.ofNat 64 off).toNat = s.inst.base.toNat + off := by
    rw [BitVec.toNat_add, BitVec.toNat_ofNat, Nat.mod_eq_of_lt (a := off) (by omega),
      Nat.mod_eq_of_lt (by omega)]
  refine ⟨by omega, ?_⟩
  simp [routeAccess, State.instances, List.findIdx?_cons, inBlock, ha, ho]

/-- All that a write to `CMD` can do. -/
theorem writeCmd_cases {v : Word} {c c' : Instance} (h : writeCmd v c = .next c') :
    (c.phase = .faulted ∧ c' = c) ∨
    (c.phase ≠ .faulted ∧ c.ended = false ∧ c.stream.length + 1 < 2 ^ 64 ∧
      c' = { c with stream := c.stream ++ [v] }) := by
  unfold writeCmd at h
  split_ifs at h with h1 h2 h3 <;> cases h
  · exact .inl ⟨h1, rfl⟩
  · exact .inr ⟨h1, by simpa using h2, h3, rfl⟩

end Sys2Proof.Machine
end

