-- ==== Sys2Proof/Laws/State.lean ====
section
/-! SUPPORT. One lemma per field per update, each true by `rfl` or by the two cases of the update. -/

namespace Sys2Proof.Machine

/-! ## A change of the instance a step runs -/

@[simp] theorem mapInst_inst (s : State) (f : Instance → Instance) : (s.mapInst f).inst = f s.inst := rfl
@[simp] theorem mapInst_mem (s : State) (f : Instance → Instance) : (s.mapInst f).mem = s.mem := rfl
@[simp] theorem mapInst_params (s : State) (f : Instance → Instance) : (s.mapInst f).params = s.params := rfl
@[simp] theorem mapInst_others (s : State) (f : Instance → Instance) : (s.mapInst f).others = s.others := rfl

/-! ## Advancing CP -/

@[simp] theorem advance_base (n : Nat) (c : Instance) : (advance n c).base = c.base := rfl
@[simp] theorem advance_cp (n : Nat) (c : Instance) : (advance n c).cp = c.cp + BitVec.ofNat 64 n := rfl
@[simp] theorem advance_phase (n : Nat) (c : Instance) : (advance n c).phase = c.phase := rfl
@[simp] theorem advance_alg (n : Nat) (c : Instance) : (advance n c).alg = c.alg := rfl
@[simp] theorem advance_buffer (n : Nat) (c : Instance) : (advance n c).buffer = c.buffer := rfl
@[simp] theorem advance_pad (n : Nat) (c : Instance) : (advance n c).pad = c.pad := rfl
@[simp] theorem advance_ek0 (n : Nat) (c : Instance) : (advance n c).ek0 = c.ek0 := rfl
@[simp] theorem advance_ek1 (n : Nat) (c : Instance) : (advance n c).ek1 = c.ek1 := rfl
@[simp] theorem advance_value (n : Nat) (c : Instance) : (advance n c).value = c.value := rfl
@[simp] theorem advance_digest (n : Nat) (c : Instance) : (advance n c).digest = c.digest := rfl
@[simp] theorem advance_fault (n : Nat) (c : Instance) : (advance n c).fault = c.fault := rfl
@[simp] theorem advance_faultCp (n : Nat) (c : Instance) : (advance n c).faultCp = c.faultCp := rfl
@[simp] theorem advance_stream (n : Nat) (c : Instance) : (advance n c).stream = c.stream := rfl
@[simp] theorem advance_ended (n : Nat) (c : Instance) : (advance n c).ended = c.ended := rfl
@[simp] theorem advance_spoiled (n : Nat) (c : Instance) : (advance n c).spoiled = c.spoiled := rfl
@[simp] theorem advance_tainted (n : Nat) (c : Instance) : (advance n c).tainted = c.tainted := rfl
@[simp] theorem advance_draws (n : Nat) (c : Instance) : (advance n c).draws = c.draws := rfl

/-! ## Counting a draw -/

@[simp] theorem countDraw_base (c : Instance) : (countDraw c).base = c.base := rfl
@[simp] theorem countDraw_cp (c : Instance) : (countDraw c).cp = c.cp := rfl
@[simp] theorem countDraw_phase (c : Instance) : (countDraw c).phase = c.phase := rfl
@[simp] theorem countDraw_alg (c : Instance) : (countDraw c).alg = c.alg := rfl
@[simp] theorem countDraw_buffer (c : Instance) : (countDraw c).buffer = c.buffer := rfl
@[simp] theorem countDraw_pad (c : Instance) : (countDraw c).pad = c.pad := rfl
@[simp] theorem countDraw_ek0 (c : Instance) : (countDraw c).ek0 = c.ek0 := rfl
@[simp] theorem countDraw_ek1 (c : Instance) : (countDraw c).ek1 = c.ek1 := rfl
@[simp] theorem countDraw_value (c : Instance) : (countDraw c).value = c.value := rfl
@[simp] theorem countDraw_digest (c : Instance) : (countDraw c).digest = c.digest := rfl
@[simp] theorem countDraw_fault (c : Instance) : (countDraw c).fault = c.fault := rfl
@[simp] theorem countDraw_faultCp (c : Instance) : (countDraw c).faultCp = c.faultCp := rfl
@[simp] theorem countDraw_stream (c : Instance) : (countDraw c).stream = c.stream := rfl
@[simp] theorem countDraw_ended (c : Instance) : (countDraw c).ended = c.ended := rfl
@[simp] theorem countDraw_spoiled (c : Instance) : (countDraw c).spoiled = c.spoiled := rfl
@[simp] theorem countDraw_tainted (c : Instance) : (countDraw c).tainted = c.tainted := rfl
@[simp] theorem countDraw_draws (c : Instance) : (countDraw c).draws = c.draws + 1 := rfl

/-! ## Settling the marks of a span and of a hasher -/

@[simp] theorem settleSpan_base (c : Instance) : (settleSpan c).base = c.base := by
  unfold settleSpan; split <;> rfl
@[simp] theorem settleSpan_cp (c : Instance) : (settleSpan c).cp = c.cp := by
  unfold settleSpan; split <;> rfl
@[simp] theorem settleSpan_phase (c : Instance) : (settleSpan c).phase = c.phase := by
  unfold settleSpan; split <;> rfl
@[simp] theorem settleSpan_alg (c : Instance) : (settleSpan c).alg = c.alg := by
  unfold settleSpan; split <;> rfl
@[simp] theorem settleSpan_buffer (c : Instance) : (settleSpan c).buffer = c.buffer := by
  unfold settleSpan; split <;> rfl
@[simp] theorem settleSpan_pad (c : Instance) : (settleSpan c).pad = c.pad := by
  unfold settleSpan; split <;> rfl
@[simp] theorem settleSpan_ek0 (c : Instance) : (settleSpan c).ek0 = c.ek0 := by
  unfold settleSpan; split <;> rfl
@[simp] theorem settleSpan_ek1 (c : Instance) : (settleSpan c).ek1 = c.ek1 := by
  unfold settleSpan; split <;> rfl
@[simp] theorem settleSpan_value (c : Instance) : (settleSpan c).value = c.value := by
  unfold settleSpan; split <;> rfl
@[simp] theorem settleSpan_digest (c : Instance) : (settleSpan c).digest = c.digest := by
  unfold settleSpan; split <;> rfl
@[simp] theorem settleSpan_fault (c : Instance) : (settleSpan c).fault = c.fault := by
  unfold settleSpan; split <;> rfl
@[simp] theorem settleSpan_faultCp (c : Instance) : (settleSpan c).faultCp = c.faultCp := by
  unfold settleSpan; split <;> rfl
@[simp] theorem settleSpan_stream (c : Instance) : (settleSpan c).stream = c.stream := by
  unfold settleSpan; split <;> rfl
@[simp] theorem settleSpan_ended (c : Instance) : (settleSpan c).ended = c.ended := by
  unfold settleSpan; split <;> rfl
@[simp] theorem settleHasher_base (c : Instance) : (settleHasher c).base = c.base := by
  unfold settleHasher; split <;> rfl
@[simp] theorem settleHasher_cp (c : Instance) : (settleHasher c).cp = c.cp := by
  unfold settleHasher; split <;> rfl
@[simp] theorem settleHasher_phase (c : Instance) : (settleHasher c).phase = c.phase := by
  unfold settleHasher; split <;> rfl
@[simp] theorem settleHasher_alg (c : Instance) : (settleHasher c).alg = c.alg := by
  unfold settleHasher; split <;> rfl
@[simp] theorem settleHasher_buffer (c : Instance) : (settleHasher c).buffer = c.buffer := by
  unfold settleHasher; split <;> rfl
@[simp] theorem settleHasher_pad (c : Instance) : (settleHasher c).pad = c.pad := by
  unfold settleHasher; split <;> rfl
@[simp] theorem settleHasher_ek0 (c : Instance) : (settleHasher c).ek0 = c.ek0 := by
  unfold settleHasher; split <;> rfl
@[simp] theorem settleHasher_ek1 (c : Instance) : (settleHasher c).ek1 = c.ek1 := by
  unfold settleHasher; split <;> rfl
@[simp] theorem settleHasher_value (c : Instance) : (settleHasher c).value = c.value := by
  unfold settleHasher; split <;> rfl
@[simp] theorem settleHasher_digest (c : Instance) : (settleHasher c).digest = c.digest := by
  unfold settleHasher; split <;> rfl
@[simp] theorem settleHasher_fault (c : Instance) : (settleHasher c).fault = c.fault := by
  unfold settleHasher; split <;> rfl
@[simp] theorem settleHasher_faultCp (c : Instance) : (settleHasher c).faultCp = c.faultCp := by
  unfold settleHasher; split <;> rfl
@[simp] theorem settleHasher_stream (c : Instance) : (settleHasher c).stream = c.stream := by
  unfold settleHasher; split <;> rfl
@[simp] theorem settleHasher_ended (c : Instance) : (settleHasher c).ended = c.ended := by
  unfold settleHasher; split <;> rfl
@[simp] theorem settleHasher_spoiled (c : Instance) : (settleHasher c).spoiled = c.spoiled := by
  unfold settleHasher; split <;> rfl

theorem settleSpan_of_not_spoiled {c : Instance} (h : spanSpoiled c = false) : settleSpan c = c := by
  simp [settleSpan, h]

theorem absorbed_of_not_spoiled {c : Instance} (h : spanSpoiled c = false) (v : Word) :
    absorbed c v = v := by
  simp [absorbed, h]

@[simp] theorem settleHasher_tainted (c : Instance) : (settleHasher c).tainted = false := by
  unfold settleHasher
  split
  · rfl
  · simpa using ‹¬c.tainted = true›

theorem settleHasher_of_untainted {c : Instance} (h : c.tainted = false) : settleHasher c = c := by
  simp [settleHasher, h]

theorem digested_of_untainted {c : Instance} (h : c.tainted = false) (v : Word) : digested c v = v := by
  simp [digested, h]

/-! ## Fault entry and reset -/

@[simp] theorem takeFault_base (f : FaultCode) (s : State) : (takeFault f s).inst.base = s.inst.base := rfl
@[simp] theorem takeFault_cp (f : FaultCode) (s : State) : (takeFault f s).inst.cp = s.inst.cp := rfl
@[simp] theorem takeFault_phase (f : FaultCode) (s : State) : (takeFault f s).inst.phase = .faulted := rfl
@[simp] theorem takeFault_alg (f : FaultCode) (s : State) : (takeFault f s).inst.alg = s.inst.alg := rfl
@[simp] theorem takeFault_buffer (f : FaultCode) (s : State) : (takeFault f s).inst.buffer = s.inst.buffer := rfl
@[simp] theorem takeFault_pad (f : FaultCode) (s : State) : (takeFault f s).inst.pad = s.inst.pad := rfl
@[simp] theorem takeFault_ek0 (f : FaultCode) (s : State) : (takeFault f s).inst.ek0 = s.inst.ek0 := rfl
@[simp] theorem takeFault_ek1 (f : FaultCode) (s : State) : (takeFault f s).inst.ek1 = s.inst.ek1 := rfl
@[simp] theorem takeFault_value (f : FaultCode) (s : State) : (takeFault f s).inst.value = s.inst.value := rfl
@[simp] theorem takeFault_digest (f : FaultCode) (s : State) : (takeFault f s).inst.digest = s.inst.digest := rfl
@[simp] theorem takeFault_fault (f : FaultCode) (s : State) : (takeFault f s).inst.fault = f := rfl
@[simp] theorem takeFault_faultCp (f : FaultCode) (s : State) : (takeFault f s).inst.faultCp = s.inst.cp := rfl
@[simp] theorem takeFault_stream (f : FaultCode) (s : State) : (takeFault f s).inst.stream = s.inst.stream := rfl
@[simp] theorem takeFault_ended (f : FaultCode) (s : State) : (takeFault f s).inst.ended = s.inst.ended := rfl
@[simp] theorem takeFault_spoiled (f : FaultCode) (s : State) : (takeFault f s).inst.spoiled = s.inst.spoiled := rfl
@[simp] theorem takeFault_tainted (f : FaultCode) (s : State) : (takeFault f s).inst.tainted = s.inst.tainted := rfl
@[simp] theorem takeFault_draws (f : FaultCode) (s : State) : (takeFault f s).inst.draws = s.inst.draws := rfl
@[simp] theorem takeFault_mem (f : FaultCode) (s : State) : (takeFault f s).mem = s.mem := rfl
@[simp] theorem takeFault_params (f : FaultCode) (s : State) : (takeFault f s).params = s.params := rfl
@[simp] theorem takeFault_others (f : FaultCode) (s : State) : (takeFault f s).others = s.others := rfl
@[simp] theorem resetInstance_base (c : Instance) : (resetInstance c).base = c.base := rfl
@[simp] theorem resetInstance_cp (c : Instance) : (resetInstance c).cp = 0#64 := rfl
@[simp] theorem resetInstance_phase (c : Instance) : (resetInstance c).phase = .empty := rfl
@[simp] theorem resetInstance_alg (c : Instance) : (resetInstance c).alg = none := rfl
@[simp] theorem resetInstance_buffer (c : Instance) : (resetInstance c).buffer = none := rfl
@[simp] theorem resetInstance_pad (c : Instance) : (resetInstance c).pad = none := rfl
@[simp] theorem resetInstance_ek0 (c : Instance) : (resetInstance c).ek0 = none := rfl
@[simp] theorem resetInstance_ek1 (c : Instance) : (resetInstance c).ek1 = none := rfl
@[simp] theorem resetInstance_value (c : Instance) : (resetInstance c).value = none := rfl
@[simp] theorem resetInstance_digest (c : Instance) : (resetInstance c).digest = none := rfl
@[simp] theorem resetInstance_fault (c : Instance) : (resetInstance c).fault = .noFault := rfl
@[simp] theorem resetInstance_faultCp (c : Instance) : (resetInstance c).faultCp = 0#64 := rfl
@[simp] theorem resetInstance_stream (c : Instance) : (resetInstance c).stream = [] := rfl
@[simp] theorem resetInstance_ended (c : Instance) : (resetInstance c).ended = false := rfl
@[simp] theorem resetInstance_spoiled (c : Instance) : (resetInstance c).spoiled = [] := rfl
@[simp] theorem resetInstance_tainted (c : Instance) : (resetInstance c).tainted = false := rfl
@[simp] theorem resetInstance_draws (c : Instance) : (resetInstance c).draws = c.draws := rfl

/-! ## The effects of the commands -/

@[simp] theorem initAhEffect_mem (s0 s1 s2 s3 : Word) (s : State) : (initAhEffect s0 s1 s2 s3 s).mem = s.mem := rfl
@[simp] theorem initAhEffect_params (s0 s1 s2 s3 : Word) (s : State) : (initAhEffect s0 s1 s2 s3 s).params = s.params := rfl
@[simp] theorem initAhEffect_others (s0 s1 s2 s3 : Word) (s : State) : (initAhEffect s0 s1 s2 s3 s).others = s.others := rfl
@[simp] theorem initAhEffect_base (s0 s1 s2 s3 : Word) (s : State) :
    (initAhEffect s0 s1 s2 s3 s).inst.base = s.inst.base := rfl
@[simp] theorem initAhEffect_cp (s0 s1 s2 s3 : Word) (s : State) :
    (initAhEffect s0 s1 s2 s3 s).inst.cp = s.inst.cp + 5#64 := rfl
@[simp] theorem initAhEffect_phase (s0 s1 s2 s3 : Word) (s : State) :
    (initAhEffect s0 s1 s2 s3 s).inst.phase = .active := rfl
@[simp] theorem initAhEffect_alg (s0 s1 s2 s3 : Word) (s : State) :
    (initAhEffect s0 s1 s2 s3 s).inst.alg = some .ahash := rfl
@[simp] theorem initAhEffect_buffer (s0 s1 s2 s3 : Word) (s : State) :
    (initAhEffect s0 s1 s2 s3 s).inst.buffer = some (s0 ^^^ s.params.piKeys.w0) := rfl
@[simp] theorem initAhEffect_pad (s0 s1 s2 s3 : Word) (s : State) :
    (initAhEffect s0 s1 s2 s3 s).inst.pad = some (s1 ^^^ s.params.piKeys.w1) := rfl
@[simp] theorem initAhEffect_ek0 (s0 s1 s2 s3 : Word) (s : State) :
    (initAhEffect s0 s1 s2 s3 s).inst.ek0 = some (s2 ^^^ s.params.piKeys.w2) := rfl
@[simp] theorem initAhEffect_ek1 (s0 s1 s2 s3 : Word) (s : State) :
    (initAhEffect s0 s1 s2 s3 s).inst.ek1 = some (s3 ^^^ s.params.piKeys.w3) := rfl
@[simp] theorem initAhEffect_value (s0 s1 s2 s3 : Word) (s : State) :
    (initAhEffect s0 s1 s2 s3 s).inst.value = none := rfl
@[simp] theorem initAhEffect_digest (s0 s1 s2 s3 : Word) (s : State) :
    (initAhEffect s0 s1 s2 s3 s).inst.digest = none := rfl
@[simp] theorem initAhEffect_fault (s0 s1 s2 s3 : Word) (s : State) :
    (initAhEffect s0 s1 s2 s3 s).inst.fault = s.inst.fault := rfl
@[simp] theorem initAhEffect_faultCp (s0 s1 s2 s3 : Word) (s : State) :
    (initAhEffect s0 s1 s2 s3 s).inst.faultCp = s.inst.faultCp := rfl
@[simp] theorem initAhEffect_stream (s0 s1 s2 s3 : Word) (s : State) :
    (initAhEffect s0 s1 s2 s3 s).inst.stream = s.inst.stream := rfl
@[simp] theorem initAhEffect_ended (s0 s1 s2 s3 : Word) (s : State) :
    (initAhEffect s0 s1 s2 s3 s).inst.ended = s.inst.ended := rfl
@[simp] theorem initAhEffect_spoiled (s0 s1 s2 s3 : Word) (s : State) :
    (initAhEffect s0 s1 s2 s3 s).inst.spoiled = s.inst.spoiled := rfl
@[simp] theorem initAhEffect_tainted (s0 s1 s2 s3 : Word) (s : State) :
    (initAhEffect s0 s1 s2 s3 s).inst.tainted = false := rfl
@[simp] theorem initAhEffect_draws (s0 s1 s2 s3 : Word) (s : State) :
    (initAhEffect s0 s1 s2 s3 s).inst.draws = s.inst.draws := rfl

@[simp] theorem initFnvEffect_mem (s : State) : (initFnvEffect s).mem = s.mem := rfl
@[simp] theorem initFnvEffect_params (s : State) : (initFnvEffect s).params = s.params := rfl
@[simp] theorem initFnvEffect_others (s : State) : (initFnvEffect s).others = s.others := rfl
@[simp] theorem initFnvEffect_base (s : State) :
    (initFnvEffect s).inst.base = s.inst.base := rfl
@[simp] theorem initFnvEffect_cp (s : State) :
    (initFnvEffect s).inst.cp = s.inst.cp + 5#64 := rfl
@[simp] theorem initFnvEffect_phase (s : State) :
    (initFnvEffect s).inst.phase = .active := rfl
@[simp] theorem initFnvEffect_alg (s : State) :
    (initFnvEffect s).inst.alg = some .fnv1a := rfl
@[simp] theorem initFnvEffect_buffer (s : State) :
    (initFnvEffect s).inst.buffer = none := rfl
@[simp] theorem initFnvEffect_pad (s : State) :
    (initFnvEffect s).inst.pad = none := rfl
@[simp] theorem initFnvEffect_ek0 (s : State) :
    (initFnvEffect s).inst.ek0 = none := rfl
@[simp] theorem initFnvEffect_ek1 (s : State) :
    (initFnvEffect s).inst.ek1 = none := rfl
@[simp] theorem initFnvEffect_value (s : State) :
    (initFnvEffect s).inst.value = some Config.offsetBasis := rfl
@[simp] theorem initFnvEffect_digest (s : State) :
    (initFnvEffect s).inst.digest = none := rfl
@[simp] theorem initFnvEffect_fault (s : State) :
    (initFnvEffect s).inst.fault = s.inst.fault := rfl
@[simp] theorem initFnvEffect_faultCp (s : State) :
    (initFnvEffect s).inst.faultCp = s.inst.faultCp := rfl
@[simp] theorem initFnvEffect_stream (s : State) :
    (initFnvEffect s).inst.stream = s.inst.stream := rfl
@[simp] theorem initFnvEffect_ended (s : State) :
    (initFnvEffect s).inst.ended = s.inst.ended := rfl
@[simp] theorem initFnvEffect_spoiled (s : State) :
    (initFnvEffect s).inst.spoiled = s.inst.spoiled := rfl
@[simp] theorem initFnvEffect_tainted (s : State) :
    (initFnvEffect s).inst.tainted = false := rfl
@[simp] theorem initFnvEffect_draws (s : State) :
    (initFnvEffect s).inst.draws = s.inst.draws := rfl

@[simp] theorem absorbBytesAhEffect_mem (ptr len : Word) (s : State) : (absorbBytesAhEffect ptr len s).mem = s.mem := rfl
@[simp] theorem absorbBytesAhEffect_params (ptr len : Word) (s : State) : (absorbBytesAhEffect ptr len s).params = s.params := rfl
@[simp] theorem absorbBytesAhEffect_others (ptr len : Word) (s : State) : (absorbBytesAhEffect ptr len s).others = s.others := rfl
@[simp] theorem absorbBytesAhEffect_base (ptr len : Word) (s : State) :
    (absorbBytesAhEffect ptr len s).inst.base = s.inst.base := settleSpan_base s.inst
@[simp] theorem absorbBytesAhEffect_cp (ptr len : Word) (s : State) :
    (absorbBytesAhEffect ptr len s).inst.cp = (settleSpan s.inst).cp + 3#64 := rfl
@[simp] theorem absorbBytesAhEffect_phase (ptr len : Word) (s : State) :
    (absorbBytesAhEffect ptr len s).inst.phase = s.inst.phase := settleSpan_phase s.inst
@[simp] theorem absorbBytesAhEffect_alg (ptr len : Word) (s : State) :
    (absorbBytesAhEffect ptr len s).inst.alg = s.inst.alg := settleSpan_alg s.inst
@[simp] theorem absorbBytesAhEffect_buffer (ptr len : Word) (s : State) :
    (absorbBytesAhEffect ptr len s).inst.buffer = some (absorbed s.inst (ahashBytes s.mem ptr len (ahashRegs s.inst)).buffer) := rfl
@[simp] theorem absorbBytesAhEffect_pad (ptr len : Word) (s : State) :
    (absorbBytesAhEffect ptr len s).inst.pad = s.inst.pad := settleSpan_pad s.inst
@[simp] theorem absorbBytesAhEffect_ek0 (ptr len : Word) (s : State) :
    (absorbBytesAhEffect ptr len s).inst.ek0 = s.inst.ek0 := settleSpan_ek0 s.inst
@[simp] theorem absorbBytesAhEffect_ek1 (ptr len : Word) (s : State) :
    (absorbBytesAhEffect ptr len s).inst.ek1 = s.inst.ek1 := settleSpan_ek1 s.inst
@[simp] theorem absorbBytesAhEffect_value (ptr len : Word) (s : State) :
    (absorbBytesAhEffect ptr len s).inst.value = s.inst.value := settleSpan_value s.inst
@[simp] theorem absorbBytesAhEffect_digest (ptr len : Word) (s : State) :
    (absorbBytesAhEffect ptr len s).inst.digest = s.inst.digest := settleSpan_digest s.inst
@[simp] theorem absorbBytesAhEffect_fault (ptr len : Word) (s : State) :
    (absorbBytesAhEffect ptr len s).inst.fault = s.inst.fault := settleSpan_fault s.inst
@[simp] theorem absorbBytesAhEffect_faultCp (ptr len : Word) (s : State) :
    (absorbBytesAhEffect ptr len s).inst.faultCp = s.inst.faultCp := settleSpan_faultCp s.inst
@[simp] theorem absorbBytesAhEffect_stream (ptr len : Word) (s : State) :
    (absorbBytesAhEffect ptr len s).inst.stream = s.inst.stream := settleSpan_stream s.inst
@[simp] theorem absorbBytesAhEffect_ended (ptr len : Word) (s : State) :
    (absorbBytesAhEffect ptr len s).inst.ended = s.inst.ended := settleSpan_ended s.inst
@[simp] theorem absorbBytesAhEffect_spoiled (ptr len : Word) (s : State) :
    (absorbBytesAhEffect ptr len s).inst.spoiled = (settleSpan s.inst).spoiled := rfl
@[simp] theorem absorbBytesAhEffect_tainted (ptr len : Word) (s : State) :
    (absorbBytesAhEffect ptr len s).inst.tainted = (settleSpan s.inst).tainted := rfl
@[simp] theorem absorbBytesAhEffect_draws (ptr len : Word) (s : State) :
    (absorbBytesAhEffect ptr len s).inst.draws = (settleSpan s.inst).draws := rfl

@[simp] theorem absorbBytesFnvEffect_mem (ptr len : Word) (s : State) : (absorbBytesFnvEffect ptr len s).mem = s.mem := rfl
@[simp] theorem absorbBytesFnvEffect_params (ptr len : Word) (s : State) : (absorbBytesFnvEffect ptr len s).params = s.params := rfl
@[simp] theorem absorbBytesFnvEffect_others (ptr len : Word) (s : State) : (absorbBytesFnvEffect ptr len s).others = s.others := rfl
@[simp] theorem absorbBytesFnvEffect_base (ptr len : Word) (s : State) :
    (absorbBytesFnvEffect ptr len s).inst.base = s.inst.base := settleSpan_base s.inst
@[simp] theorem absorbBytesFnvEffect_cp (ptr len : Word) (s : State) :
    (absorbBytesFnvEffect ptr len s).inst.cp = (settleSpan s.inst).cp + 3#64 := rfl
@[simp] theorem absorbBytesFnvEffect_phase (ptr len : Word) (s : State) :
    (absorbBytesFnvEffect ptr len s).inst.phase = s.inst.phase := settleSpan_phase s.inst
@[simp] theorem absorbBytesFnvEffect_alg (ptr len : Word) (s : State) :
    (absorbBytesFnvEffect ptr len s).inst.alg = s.inst.alg := settleSpan_alg s.inst
@[simp] theorem absorbBytesFnvEffect_buffer (ptr len : Word) (s : State) :
    (absorbBytesFnvEffect ptr len s).inst.buffer = s.inst.buffer := settleSpan_buffer s.inst
@[simp] theorem absorbBytesFnvEffect_pad (ptr len : Word) (s : State) :
    (absorbBytesFnvEffect ptr len s).inst.pad = s.inst.pad := settleSpan_pad s.inst
@[simp] theorem absorbBytesFnvEffect_ek0 (ptr len : Word) (s : State) :
    (absorbBytesFnvEffect ptr len s).inst.ek0 = s.inst.ek0 := settleSpan_ek0 s.inst
@[simp] theorem absorbBytesFnvEffect_ek1 (ptr len : Word) (s : State) :
    (absorbBytesFnvEffect ptr len s).inst.ek1 = s.inst.ek1 := settleSpan_ek1 s.inst
@[simp] theorem absorbBytesFnvEffect_value (ptr len : Word) (s : State) :
    (absorbBytesFnvEffect ptr len s).inst.value = some (absorbed s.inst (fnvBytes s.mem ptr.toNat len.toNat (fnvReg s.inst))) := rfl
@[simp] theorem absorbBytesFnvEffect_digest (ptr len : Word) (s : State) :
    (absorbBytesFnvEffect ptr len s).inst.digest = s.inst.digest := settleSpan_digest s.inst
@[simp] theorem absorbBytesFnvEffect_fault (ptr len : Word) (s : State) :
    (absorbBytesFnvEffect ptr len s).inst.fault = s.inst.fault := settleSpan_fault s.inst
@[simp] theorem absorbBytesFnvEffect_faultCp (ptr len : Word) (s : State) :
    (absorbBytesFnvEffect ptr len s).inst.faultCp = s.inst.faultCp := settleSpan_faultCp s.inst
@[simp] theorem absorbBytesFnvEffect_stream (ptr len : Word) (s : State) :
    (absorbBytesFnvEffect ptr len s).inst.stream = s.inst.stream := settleSpan_stream s.inst
@[simp] theorem absorbBytesFnvEffect_ended (ptr len : Word) (s : State) :
    (absorbBytesFnvEffect ptr len s).inst.ended = s.inst.ended := settleSpan_ended s.inst
@[simp] theorem absorbBytesFnvEffect_spoiled (ptr len : Word) (s : State) :
    (absorbBytesFnvEffect ptr len s).inst.spoiled = (settleSpan s.inst).spoiled := rfl
@[simp] theorem absorbBytesFnvEffect_tainted (ptr len : Word) (s : State) :
    (absorbBytesFnvEffect ptr len s).inst.tainted = (settleSpan s.inst).tainted := rfl
@[simp] theorem absorbBytesFnvEffect_draws (ptr len : Word) (s : State) :
    (absorbBytesFnvEffect ptr len s).inst.draws = (settleSpan s.inst).draws := rfl

@[simp] theorem absorbChunkAhEffect_mem (t : EType) (n : Fin 7) (es : List Word) (s : State) : (absorbChunkAhEffect t n es s).mem = s.mem := rfl
@[simp] theorem absorbChunkAhEffect_params (t : EType) (n : Fin 7) (es : List Word) (s : State) : (absorbChunkAhEffect t n es s).params = s.params := rfl
@[simp] theorem absorbChunkAhEffect_others (t : EType) (n : Fin 7) (es : List Word) (s : State) : (absorbChunkAhEffect t n es s).others = s.others := rfl
@[simp] theorem absorbChunkAhEffect_base (t : EType) (n : Fin 7) (es : List Word) (s : State) :
    (absorbChunkAhEffect t n es s).inst.base = s.inst.base := rfl
@[simp] theorem absorbChunkAhEffect_cp (t : EType) (n : Fin 7) (es : List Word) (s : State) :
    (absorbChunkAhEffect t n es s).inst.cp = s.inst.cp + BitVec.ofNat 64 (1 + 2 ^ n.val) := rfl
@[simp] theorem absorbChunkAhEffect_phase (t : EType) (n : Fin 7) (es : List Word) (s : State) :
    (absorbChunkAhEffect t n es s).inst.phase = s.inst.phase := rfl
@[simp] theorem absorbChunkAhEffect_alg (t : EType) (n : Fin 7) (es : List Word) (s : State) :
    (absorbChunkAhEffect t n es s).inst.alg = s.inst.alg := rfl
@[simp] theorem absorbChunkAhEffect_buffer (t : EType) (n : Fin 7) (es : List Word) (s : State) :
    (absorbChunkAhEffect t n es s).inst.buffer = some (ahashChunk (widened s.params t es) (ahashRegs s.inst)).buffer := rfl
@[simp] theorem absorbChunkAhEffect_pad (t : EType) (n : Fin 7) (es : List Word) (s : State) :
    (absorbChunkAhEffect t n es s).inst.pad = s.inst.pad := rfl
@[simp] theorem absorbChunkAhEffect_ek0 (t : EType) (n : Fin 7) (es : List Word) (s : State) :
    (absorbChunkAhEffect t n es s).inst.ek0 = s.inst.ek0 := rfl
@[simp] theorem absorbChunkAhEffect_ek1 (t : EType) (n : Fin 7) (es : List Word) (s : State) :
    (absorbChunkAhEffect t n es s).inst.ek1 = s.inst.ek1 := rfl
@[simp] theorem absorbChunkAhEffect_value (t : EType) (n : Fin 7) (es : List Word) (s : State) :
    (absorbChunkAhEffect t n es s).inst.value = s.inst.value := rfl
@[simp] theorem absorbChunkAhEffect_digest (t : EType) (n : Fin 7) (es : List Word) (s : State) :
    (absorbChunkAhEffect t n es s).inst.digest = s.inst.digest := rfl
@[simp] theorem absorbChunkAhEffect_fault (t : EType) (n : Fin 7) (es : List Word) (s : State) :
    (absorbChunkAhEffect t n es s).inst.fault = s.inst.fault := rfl
@[simp] theorem absorbChunkAhEffect_faultCp (t : EType) (n : Fin 7) (es : List Word) (s : State) :
    (absorbChunkAhEffect t n es s).inst.faultCp = s.inst.faultCp := rfl
@[simp] theorem absorbChunkAhEffect_stream (t : EType) (n : Fin 7) (es : List Word) (s : State) :
    (absorbChunkAhEffect t n es s).inst.stream = s.inst.stream := rfl
@[simp] theorem absorbChunkAhEffect_ended (t : EType) (n : Fin 7) (es : List Word) (s : State) :
    (absorbChunkAhEffect t n es s).inst.ended = s.inst.ended := rfl
@[simp] theorem absorbChunkAhEffect_spoiled (t : EType) (n : Fin 7) (es : List Word) (s : State) :
    (absorbChunkAhEffect t n es s).inst.spoiled = s.inst.spoiled := rfl
@[simp] theorem absorbChunkAhEffect_tainted (t : EType) (n : Fin 7) (es : List Word) (s : State) :
    (absorbChunkAhEffect t n es s).inst.tainted = s.inst.tainted := rfl
@[simp] theorem absorbChunkAhEffect_draws (t : EType) (n : Fin 7) (es : List Word) (s : State) :
    (absorbChunkAhEffect t n es s).inst.draws = s.inst.draws := rfl

@[simp] theorem absorbChunkFnvEffect_mem (t : EType) (n : Fin 7) (es : List Word) (s : State) : (absorbChunkFnvEffect t n es s).mem = s.mem := rfl
@[simp] theorem absorbChunkFnvEffect_params (t : EType) (n : Fin 7) (es : List Word) (s : State) : (absorbChunkFnvEffect t n es s).params = s.params := rfl
@[simp] theorem absorbChunkFnvEffect_others (t : EType) (n : Fin 7) (es : List Word) (s : State) : (absorbChunkFnvEffect t n es s).others = s.others := rfl
@[simp] theorem absorbChunkFnvEffect_base (t : EType) (n : Fin 7) (es : List Word) (s : State) :
    (absorbChunkFnvEffect t n es s).inst.base = s.inst.base := rfl
@[simp] theorem absorbChunkFnvEffect_cp (t : EType) (n : Fin 7) (es : List Word) (s : State) :
    (absorbChunkFnvEffect t n es s).inst.cp = s.inst.cp + BitVec.ofNat 64 (1 + 2 ^ n.val) := rfl
@[simp] theorem absorbChunkFnvEffect_phase (t : EType) (n : Fin 7) (es : List Word) (s : State) :
    (absorbChunkFnvEffect t n es s).inst.phase = s.inst.phase := rfl
@[simp] theorem absorbChunkFnvEffect_alg (t : EType) (n : Fin 7) (es : List Word) (s : State) :
    (absorbChunkFnvEffect t n es s).inst.alg = s.inst.alg := rfl
@[simp] theorem absorbChunkFnvEffect_buffer (t : EType) (n : Fin 7) (es : List Word) (s : State) :
    (absorbChunkFnvEffect t n es s).inst.buffer = s.inst.buffer := rfl
@[simp] theorem absorbChunkFnvEffect_pad (t : EType) (n : Fin 7) (es : List Word) (s : State) :
    (absorbChunkFnvEffect t n es s).inst.pad = s.inst.pad := rfl
@[simp] theorem absorbChunkFnvEffect_ek0 (t : EType) (n : Fin 7) (es : List Word) (s : State) :
    (absorbChunkFnvEffect t n es s).inst.ek0 = s.inst.ek0 := rfl
@[simp] theorem absorbChunkFnvEffect_ek1 (t : EType) (n : Fin 7) (es : List Word) (s : State) :
    (absorbChunkFnvEffect t n es s).inst.ek1 = s.inst.ek1 := rfl
@[simp] theorem absorbChunkFnvEffect_value (t : EType) (n : Fin 7) (es : List Word) (s : State) :
    (absorbChunkFnvEffect t n es s).inst.value = some (fnvChunk (widened s.params t es) (fnvReg s.inst)) := rfl
@[simp] theorem absorbChunkFnvEffect_digest (t : EType) (n : Fin 7) (es : List Word) (s : State) :
    (absorbChunkFnvEffect t n es s).inst.digest = s.inst.digest := rfl
@[simp] theorem absorbChunkFnvEffect_fault (t : EType) (n : Fin 7) (es : List Word) (s : State) :
    (absorbChunkFnvEffect t n es s).inst.fault = s.inst.fault := rfl
@[simp] theorem absorbChunkFnvEffect_faultCp (t : EType) (n : Fin 7) (es : List Word) (s : State) :
    (absorbChunkFnvEffect t n es s).inst.faultCp = s.inst.faultCp := rfl
@[simp] theorem absorbChunkFnvEffect_stream (t : EType) (n : Fin 7) (es : List Word) (s : State) :
    (absorbChunkFnvEffect t n es s).inst.stream = s.inst.stream := rfl
@[simp] theorem absorbChunkFnvEffect_ended (t : EType) (n : Fin 7) (es : List Word) (s : State) :
    (absorbChunkFnvEffect t n es s).inst.ended = s.inst.ended := rfl
@[simp] theorem absorbChunkFnvEffect_spoiled (t : EType) (n : Fin 7) (es : List Word) (s : State) :
    (absorbChunkFnvEffect t n es s).inst.spoiled = s.inst.spoiled := rfl
@[simp] theorem absorbChunkFnvEffect_tainted (t : EType) (n : Fin 7) (es : List Word) (s : State) :
    (absorbChunkFnvEffect t n es s).inst.tainted = s.inst.tainted := rfl
@[simp] theorem absorbChunkFnvEffect_draws (t : EType) (n : Fin 7) (es : List Word) (s : State) :
    (absorbChunkFnvEffect t n es s).inst.draws = s.inst.draws := rfl

@[simp] theorem finishAhEffect_mem (s : State) : (finishAhEffect s).mem = s.mem := rfl
@[simp] theorem finishAhEffect_params (s : State) : (finishAhEffect s).params = s.params := rfl
@[simp] theorem finishAhEffect_others (s : State) : (finishAhEffect s).others = s.others := rfl
@[simp] theorem finishAhEffect_base (s : State) :
    (finishAhEffect s).inst.base = s.inst.base := settleHasher_base s.inst
@[simp] theorem finishAhEffect_cp (s : State) :
    (finishAhEffect s).inst.cp = (settleHasher s.inst).cp + 1#64 := rfl
@[simp] theorem finishAhEffect_phase (s : State) :
    (finishAhEffect s).inst.phase = .finished := rfl
@[simp] theorem finishAhEffect_alg (s : State) :
    (finishAhEffect s).inst.alg = s.inst.alg := settleHasher_alg s.inst
@[simp] theorem finishAhEffect_buffer (s : State) :
    (finishAhEffect s).inst.buffer = none := rfl
@[simp] theorem finishAhEffect_pad (s : State) :
    (finishAhEffect s).inst.pad = none := rfl
@[simp] theorem finishAhEffect_ek0 (s : State) :
    (finishAhEffect s).inst.ek0 = none := rfl
@[simp] theorem finishAhEffect_ek1 (s : State) :
    (finishAhEffect s).inst.ek1 = none := rfl
@[simp] theorem finishAhEffect_value (s : State) :
    (finishAhEffect s).inst.value = s.inst.value := settleHasher_value s.inst
@[simp] theorem finishAhEffect_digest (s : State) :
    (finishAhEffect s).inst.digest = some (digested s.inst (ahashDigest (ahashRegs s.inst))) := rfl
@[simp] theorem finishAhEffect_fault (s : State) :
    (finishAhEffect s).inst.fault = s.inst.fault := settleHasher_fault s.inst
@[simp] theorem finishAhEffect_faultCp (s : State) :
    (finishAhEffect s).inst.faultCp = s.inst.faultCp := settleHasher_faultCp s.inst
@[simp] theorem finishAhEffect_stream (s : State) :
    (finishAhEffect s).inst.stream = s.inst.stream := settleHasher_stream s.inst
@[simp] theorem finishAhEffect_ended (s : State) :
    (finishAhEffect s).inst.ended = s.inst.ended := settleHasher_ended s.inst
@[simp] theorem finishAhEffect_spoiled (s : State) :
    (finishAhEffect s).inst.spoiled = s.inst.spoiled := settleHasher_spoiled s.inst
@[simp] theorem finishAhEffect_tainted (s : State) :
    (finishAhEffect s).inst.tainted = (settleHasher s.inst).tainted := rfl
@[simp] theorem finishAhEffect_draws (s : State) :
    (finishAhEffect s).inst.draws = (settleHasher s.inst).draws := rfl

@[simp] theorem finishFnvEffect_mem (s : State) : (finishFnvEffect s).mem = s.mem := rfl
@[simp] theorem finishFnvEffect_params (s : State) : (finishFnvEffect s).params = s.params := rfl
@[simp] theorem finishFnvEffect_others (s : State) : (finishFnvEffect s).others = s.others := rfl
@[simp] theorem finishFnvEffect_base (s : State) :
    (finishFnvEffect s).inst.base = s.inst.base := settleHasher_base s.inst
@[simp] theorem finishFnvEffect_cp (s : State) :
    (finishFnvEffect s).inst.cp = (settleHasher s.inst).cp + 1#64 := rfl
@[simp] theorem finishFnvEffect_phase (s : State) :
    (finishFnvEffect s).inst.phase = .finished := rfl
@[simp] theorem finishFnvEffect_alg (s : State) :
    (finishFnvEffect s).inst.alg = s.inst.alg := settleHasher_alg s.inst
@[simp] theorem finishFnvEffect_buffer (s : State) :
    (finishFnvEffect s).inst.buffer = s.inst.buffer := settleHasher_buffer s.inst
@[simp] theorem finishFnvEffect_pad (s : State) :
    (finishFnvEffect s).inst.pad = s.inst.pad := settleHasher_pad s.inst
@[simp] theorem finishFnvEffect_ek0 (s : State) :
    (finishFnvEffect s).inst.ek0 = s.inst.ek0 := settleHasher_ek0 s.inst
@[simp] theorem finishFnvEffect_ek1 (s : State) :
    (finishFnvEffect s).inst.ek1 = s.inst.ek1 := settleHasher_ek1 s.inst
@[simp] theorem finishFnvEffect_value (s : State) :
    (finishFnvEffect s).inst.value = none := rfl
@[simp] theorem finishFnvEffect_digest (s : State) :
    (finishFnvEffect s).inst.digest = some (digested s.inst (fnvReg s.inst)) := rfl
@[simp] theorem finishFnvEffect_fault (s : State) :
    (finishFnvEffect s).inst.fault = s.inst.fault := settleHasher_fault s.inst
@[simp] theorem finishFnvEffect_faultCp (s : State) :
    (finishFnvEffect s).inst.faultCp = s.inst.faultCp := settleHasher_faultCp s.inst
@[simp] theorem finishFnvEffect_stream (s : State) :
    (finishFnvEffect s).inst.stream = s.inst.stream := settleHasher_stream s.inst
@[simp] theorem finishFnvEffect_ended (s : State) :
    (finishFnvEffect s).inst.ended = s.inst.ended := settleHasher_ended s.inst
@[simp] theorem finishFnvEffect_spoiled (s : State) :
    (finishFnvEffect s).inst.spoiled = s.inst.spoiled := settleHasher_spoiled s.inst
@[simp] theorem finishFnvEffect_tainted (s : State) :
    (finishFnvEffect s).inst.tainted = (settleHasher s.inst).tainted := rfl
@[simp] theorem finishFnvEffect_draws (s : State) :
    (finishFnvEffect s).inst.draws = (settleHasher s.inst).draws := rfl

end Sys2Proof.Machine
end

