-- ==== Sys2Proof/Laws/Loops.lean ====
section
/-! SUPPORT. The loops of the absorb commands as folds over a range, each said once. -/

namespace Sys2Proof.Machine

/-- The forward scan from block `j` on: the blocks that start before the last 16 bytes, in order. -/
theorem forwardScan_eq_foldl (m : Memory) (p n fuel j : Nat) (h : AHashRegs)
    (hfuel : (n - 1) / 16 ≤ fuel + j) :
    forwardScan m p n fuel (16 * j) h =
      ((List.range ((n - 1) / 16 - j)).map fun i => readLane16 m (p + 16 * (j + i))).foldl
        (fun h l => largeUpdate l h) h := by
  induction fuel generalizing j h with
  | zero => simp [forwardScan, show (n - 1) / 16 - j = 0 by omega]
  | succ fuel ih =>
    unfold forwardScan
    by_cases hc : n - 16 * j > 16
    · rw [if_pos hc, show 16 * j + 16 = 16 * (j + 1) by ring, ih _ _ (by omega)]
      obtain ⟨d, hd⟩ : ∃ d, (n - 1) / 16 - j = d + 1 := ⟨(n - 1) / 16 - j - 1, by omega⟩
      rw [hd, show (n - 1) / 16 - (j + 1) = d by omega, List.range_succ_eq_map]
      simp only [List.map_cons, List.foldl_cons, List.map_map]
      congr 1
      apply List.map_congr_left
      intro i _
      simp only [Function.comp_apply, Nat.succ_eq_add_one]
      congr 1
      ring
    · rw [if_neg hc, show (n - 1) / 16 - j = 0 by omega]
      rfl

/-- The byte loop of FNV.ABSORB_BYTES. -/
theorem fnvBytes_eq_foldl (m : Memory) (p n : Nat) (v : Word) :
    fnvBytes m p n v = (List.range n).foldl (fun u k => fnvStep u (memByte64 m (p + k))) v := by
  induction n generalizing p v with
  | zero => rfl
  | succ n ih =>
    rw [fnvBytes, ih, List.range_succ_eq_map]
    simp only [List.foldl_cons, List.foldl_map, Nat.add_zero]
    congr 1
    funext u k
    rw [show p + 1 + k = p + k.succ by omega]

/-- The element loop of FNV.ABSORB_CHUNK. -/
theorem fnvChunk_eq_foldl (vs : List Word) (v : Word) : fnvChunk vs v = vs.foldl fnvStep v := by
  induction vs generalizing v with
  | nil => rfl
  | cons x xs ih => rw [fnvChunk, ih, List.foldl_cons]

/-- The pair loop of AH.ABSORB_CHUNK on `2 * n` elements. -/
theorem chunkPairs_eq_foldl (vs : List Word) (n : Nat) (hlen : vs.length = 2 * n) (h : AHashRegs) :
    chunkPairs vs h = (List.range n).foldl
      (fun h j => largeUpdate ⟨vs.getD (2 * j) 0#64, vs.getD (2 * j + 1) 0#64⟩ h) h := by
  induction n generalizing vs h with
  | zero => simp at hlen; subst hlen; rfl
  | succ n ih =>
    match vs, hlen with
    | x :: y :: r, hlen =>
      simp at hlen
      rw [chunkPairs, ih r (by omega), List.range_succ_eq_map]
      simp [List.foldl_map, Nat.mul_succ]
    | [_], hlen => simp at hlen; omega

/-- `ROTL64` is the rotate of bit vectors. -/
theorem rotl64_eq_rotateLeft (x : Word) (r : Nat) : rotl64 x r = x.rotateLeft r := by
  unfold rotl64
  simp only
  split_ifs with h
  · rw [BitVec.rotateLeft, BitVec.rotateLeftAux, h]
    simp [BitVec.ushiftRight_eq_zero]
  · rfl

end Sys2Proof.Machine
end

