-- ==== Sys2Proof/Laws/Memory.lean ====
section
/-! SUPPORT. The data memory: reading after placing, the canonical form, and what admission says. -/

namespace Sys2Proof.Machine

/-! ## Reading after placing -/

theorem Memory.lookup_place (m : Memory) (a k : Nat) (b : Byte) :
    Memory.lookup (Memory.place m a b) k = if k = a then some b else Memory.lookup m k := by
  induction m with
  | nil => simp [Memory.place, Memory.lookup]
  | cons c m ih =>
    obtain ⟨a', b'⟩ := c
    unfold Memory.place
    by_cases h1 : a < a'
    · simp [h1, Memory.lookup]
    · by_cases h2 : a = a'
      · subst h2
        by_cases hk : k = a <;> simp [Memory.lookup, hk]
      · by_cases hk : k = a'
        · subst hk
          simp [h1, h2, Memory.lookup, Ne.symm h2]
        · simp [h1, h2, Memory.lookup, hk, ih]

/-! ## The canonical form -/

theorem Memory.risingFrom_mono {lo lo' : Nat} {m : Memory} (hle : lo ≤ lo')
    (h : Memory.risingFrom lo' m = true) : Memory.risingFrom lo m = true := by
  cases m with
  | nil => rfl
  | cons c m =>
    obtain ⟨a, b⟩ := c
    simp only [Memory.risingFrom, Bool.and_eq_true, decide_eq_true_eq] at h ⊢
    exact ⟨⟨by omega, h.1.2⟩, h.2⟩

theorem Memory.risingFrom_place {lo : Nat} {m : Memory} {a : Nat} (b : Byte) (hlo : lo ≤ a)
    (ha : a < 2 ^ 64) (h : Memory.risingFrom lo m = true) :
    Memory.risingFrom lo (Memory.place m a b) = true := by
  induction m generalizing lo with
  | nil => simp [Memory.place, Memory.risingFrom, hlo]; exact ha
  | cons c m ih =>
    obtain ⟨a', b'⟩ := c
    have hc := h
    simp only [Memory.risingFrom, Bool.and_eq_true, decide_eq_true_eq] at hc
    unfold Memory.place
    by_cases h1 : a < a'
    · simp only [h1, if_true, Memory.risingFrom, Bool.and_eq_true, decide_eq_true_eq]
      exact ⟨⟨hlo, ha⟩, ⟨by omega, hc.1.2⟩, hc.2⟩
    · by_cases h2 : a = a'
      · subst h2
        simp only [lt_irrefl, if_false, if_true, Memory.risingFrom, Bool.and_eq_true,
          decide_eq_true_eq]
        exact ⟨⟨hlo, ha⟩, hc.2⟩
      · simp only [h1, h2, if_false, Memory.risingFrom, Bool.and_eq_true, decide_eq_true_eq]
        exact ⟨hc.1, ih (by omega) hc.2⟩

/-- Placing a byte at a 64-bit address keeps the canonical form. -/
theorem Memory.wf_place {m : Memory} {a : Nat} (b : Byte) (ha : a < 2 ^ 64)
    (h : Memory.wf m = true) : Memory.wf (Memory.place m a b) = true :=
  Memory.risingFrom_place b (Nat.zero_le a) ha h

/-- The host's store, the one operation that changes data memory, keeps its canonical form. -/
theorem hostStore_wf {s : State} (a : Word) (b : Byte) (h : Memory.wf s.mem = true) :
    Memory.wf (hostStore a b s).mem = true :=
  Memory.wf_place b a.isLt h

theorem reset_memory_wf : Memory.wf State.reset.mem = true := rfl

/-! ## What the data memory holds -/

theorem Memory.lookup_below {lo k : Nat} {m : Memory} (h : Memory.risingFrom lo m = true)
    (hk : k < lo) : Memory.lookup m k = none := by
  induction m generalizing lo with
  | nil => rfl
  | cons c m ih =>
    obtain ⟨a, b⟩ := c
    simp only [Memory.risingFrom, Bool.and_eq_true, decide_eq_true_eq] at h
    have hne : k ≠ a := by omega
    simp only [Memory.lookup, hne, if_false]
    exact ih h.2 (by omega)

/-- In a canonical memory `holds` says what it is named for: every byte of the range is there. -/
theorem Memory.holds_iff {lo : Nat} {m : Memory} (h : Memory.risingFrom lo m = true) (p n : Nat) :
    Memory.holds m p n = true ↔ ∀ k < n, (Memory.lookup m (p + k)).isSome = true := by
  induction m generalizing lo p n with
  | nil =>
    cases n with
    | zero => simp [Memory.holds]
    | succ n =>
      simp only [Memory.holds, Memory.lookup, Option.isSome_none, Bool.false_eq_true, imp_false,
        false_iff, not_forall]
      exact ⟨0, by omega⟩
  | cons c m ih =>
    obtain ⟨a, b⟩ := c
    simp only [Memory.risingFrom, Bool.and_eq_true, decide_eq_true_eq] at h
    cases n with
    | zero => simp [Memory.holds]
    | succ n =>
      unfold Memory.holds
      by_cases h1 : a < p
      · simp only [h1, if_true]
        rw [ih h.2]
        refine forall_congr' fun k => imp_congr_right fun _ => ?_
        have : p + k ≠ a := by omega
        simp [Memory.lookup, this]
      · by_cases h2 : a = p
        · subst h2
          simp only [lt_irrefl, if_false, if_true]
          rw [ih h.2]
          constructor
          · intro hh k hk
            cases k with
            | zero => simp [Memory.lookup]
            | succ k =>
              have := hh k (by omega)
              have hne : a + (k + 1) ≠ a := by omega
              simp only [Memory.lookup, hne, if_false]
              rwa [show a + (k + 1) = a + 1 + k by omega]
          · intro hh k hk
            have := hh (k + 1) (by omega)
            have hne : a + (k + 1) ≠ a := by omega
            simp only [Memory.lookup, hne, if_false] at this
            rwa [show a + 1 + k = a + (k + 1) by omega]
        · simp only [h1, h2, if_false, Bool.false_eq_true, false_iff, not_forall]
          refine ⟨0, by omega, ?_⟩
          have hne : p ≠ a := by omega
          simp only [Nat.add_zero, Memory.lookup, hne, if_false]
          rw [Memory.lookup_below h.2 (by omega)]
          simp

/-- What `admitted` says of a canonical memory. -/
theorem admitted_spec {m : Memory} (h : Memory.wf m = true) (ptr len : Word) :
    admitted m ptr len = true ↔
      len = 0#64 ∨ (ptr.toNat + len.toNat ≤ 2 ^ 64 ∧
        ∀ k < len.toNat, (Memory.lookup m (ptr.toNat + k)).isSome = true) := by
  unfold admitted
  by_cases h0 : len = 0#64
  · simp [h0]
  · by_cases h1 : ptr.toNat + len.toNat > 2 ^ 64
    · simp only [h0, h1, if_true, if_false, false_or, Bool.false_eq_true, false_iff, not_and]
      omega
    · simp only [h0, h1, if_false, false_or]
      rw [Memory.holds_iff h]
      exact ⟨fun hh => ⟨by omega, hh⟩, fun hh => hh.2⟩

/-! ## Multi-byte reads -/

theorem memReadNat_lt (m : Memory) (a n : Nat) : memReadNat m a n < 2 ^ (8 * n) := by
  induction n with
  | zero => simp [memReadNat]
  | succ n ih =>
    have hb : (memByte m (a + n)).toNat < 2 ^ 8 := (memByte m (a + n)).isLt
    have hmul : 2 ^ (8 * n) * (memByte m (a + n)).toNat ≤ 2 ^ (8 * n) * (2 ^ 8 - 1) :=
      Nat.mul_le_mul_left _ (by omega)
    have hpow : 2 ^ (8 * (n + 1)) = 2 ^ (8 * n) * 2 ^ 8 := by rw [← pow_add]; ring_nf
    simp only [memReadNat]
    rw [hpow]
    omega

/-- A multi-byte read looks at its own bytes only. -/
theorem memReadNat_congr {m m' : Memory} {a n : Nat}
    (h : ∀ k < n, memByte m (a + k) = memByte m' (a + k)) :
    memReadNat m a n = memReadNat m' a n := by
  induction n with
  | zero => rfl
  | succ n ih => simp [memReadNat, ih fun k hk => h k (by omega), h n (by omega)]

theorem memRead_congr {m m' : Memory} {a n : Nat}
    (h : ∀ k < n, memByte m (a + k) = memByte m' (a + k)) : memRead m a n = memRead m' a n := by
  simp [memRead, memReadNat_congr h]

end Sys2Proof.Machine
end

