-- ==== Sys2Proof/Laws/PerInstr.lean ====
section
/-! SUPPORT. Facts about every command as syntax, one lemma per constructor of `Instr`. -/

namespace Sys2Proof.Laws

/-- A well-formed command is encoded in as many words as `LEN(cmd)` says (30_encoding.md R63). -/
def EncodeLength.Statement (i : Instr) : Prop := i.wellFormed = true → (encode i).length = i.words

theorem EncodeLength.initFnv (s0 s1 s2 s3 : Word) : EncodeLength.Statement (.initFnv s0 s1 s2 s3) :=
  fun _ => rfl

theorem EncodeLength.absorbBytesFnv (ptr len : Word) :
    EncodeLength.Statement (.absorbBytesFnv ptr len) :=
  fun _ => rfl

theorem EncodeLength.absorbChunkFnv (t : EType) (nlog : Fin 7) (es : List Word) :
    EncodeLength.Statement (.absorbChunkFnv t nlog es) := by
  intro h
  simp only [Instr.wellFormed, chunkWellFormed, Bool.and_eq_true, decide_eq_true_eq] at h
  simp [encode, Instr.words, h.1, Nat.add_comm]

theorem EncodeLength.finishFnv : EncodeLength.Statement .finishFnv :=
  fun _ => rfl

theorem EncodeLength.initAh (s0 s1 s2 s3 : Word) : EncodeLength.Statement (.initAh s0 s1 s2 s3) :=
  fun _ => rfl

theorem EncodeLength.absorbBytesAh (ptr len : Word) :
    EncodeLength.Statement (.absorbBytesAh ptr len) :=
  fun _ => rfl

theorem EncodeLength.absorbChunkAh (t : EType) (nlog : Fin 7) (es : List Word) :
    EncodeLength.Statement (.absorbChunkAh t nlog es) := by
  intro h
  simp only [Instr.wellFormed, chunkWellFormed, Bool.and_eq_true, decide_eq_true_eq] at h
  simp [encode, Instr.words, h.1, Nat.add_comm]

theorem EncodeLength.finishAh : EncodeLength.Statement .finishAh :=
  fun _ => rfl

end Sys2Proof.Laws
end

