-- ==== Sys2Proof/Laws/Step.lean ====
section
/-! SUPPORT. What running a command, one fetch and one step can do, each said once. -/

namespace Sys2Proof.Machine

/-- The effect a command has once its checks pass. -/
def effectOf : Instr → State → State
  | .initFnv _ _ _ _ => initFnvEffect
  | .absorbBytesFnv ptr len => absorbBytesFnvEffect ptr len
  | .absorbChunkFnv t nlog es => absorbChunkFnvEffect t nlog es
  | .finishFnv => finishFnvEffect
  | .initAh s0 s1 s2 s3 => initAhEffect s0 s1 s2 s3
  | .absorbBytesAh ptr len => absorbBytesAhEffect ptr len
  | .absorbChunkAh t nlog es => absorbChunkAhEffect t nlog es
  | .finishAh => finishAhEffect

/-- Every meaning is its effect behind the checks. -/
theorem exec_eq_attempt (i : Instr) (s : State) : exec i s = attempt i (effectOf i) s := by
  cases i <;> rfl

/-- All that running a command can do: nothing in FAULTED, a fault, or its effect. -/
theorem attempt_cases {i : Instr} {e : State → State} {s t : State} (h : attempt i e s = .next t) :
    (s.inst.phase = .faulted ∧ t = s) ∨
    (s.inst.phase ≠ .faulted ∧ ∃ f, failingCheck i s = some f ∧ t = takeFault f s) ∨
    (s.inst.phase ≠ .faulted ∧ failingCheck i s = none ∧ t = e s) := by
  unfold attempt at h
  by_cases hp : s.inst.phase = .faulted
  · simp only [hp, if_true, Host.Outcome.next.injEq] at h
    exact .inl ⟨hp, h.symm⟩
  · simp only [hp, if_false] at h
    cases hf : failingCheck i s with
    | some f =>
      simp only [hf, Host.Outcome.next.injEq] at h
      exact .inr (.inl ⟨hp, f, rfl, h.symm⟩)
    | none =>
      simp only [hf, Host.Outcome.next.injEq] at h
      exact .inr (.inr ⟨hp, rfl, h.symm⟩)

theorem attempt_faulted {i : Instr} {e : State → State} {s : State} (hp : s.inst.phase = .faulted) :
    attempt i e s = .next s := by
  simp [attempt, hp]

theorem attempt_fault {i : Instr} {e : State → State} {s : State} {f : FaultCode}
    (hp : s.inst.phase ≠ .faulted) (hf : failingCheck i s = some f) :
    attempt i e s = .next (takeFault f s) := by
  simp [attempt, hp, hf]

theorem attempt_effect {i : Instr} {e : State → State} {s : State}
    (hp : s.inst.phase ≠ .faulted) (hf : failingCheck i s = none) :
    attempt i e s = .next (e s) := by
  simp [attempt, hp, hf]

/-- All that a command can do. -/
theorem exec_cases {i : Instr} {s t : State} (h : exec i s = .next t) :
    (s.inst.phase = .faulted ∧ t = s) ∨
    (s.inst.phase ≠ .faulted ∧ ∃ f, failingCheck i s = some f ∧ t = takeFault f s) ∨
    (s.inst.phase ≠ .faulted ∧ failingCheck i s = none ∧ t = effectOf i s) :=
  attempt_cases (exec_eq_attempt i s ▸ h)

/-- When every check of a whole command passes (60_exceptions.md R126). -/
theorem failingCheck_none {i : Instr} {s : State} :
    failingCheck i s = none ↔
      refusedCheck s.params i.op i.alg = none ∧ i.wellFormed = true ∧
      phaseAllows s.inst.phase i.op = true ∧ (i.op = .init ∨ s.inst.alg = some i.alg) ∧
      boundsCheck s.mem i = none := by
  have halg : algCheck s.inst i = none ↔ (i.op = .init ∨ s.inst.alg = some i.alg) := by
    unfold algCheck
    split <;> rename_i hc <;> (simp_all; try tauto)
  rw [← halg]
  simp [failingCheck, payloadCheck, phaseCheck]

/-- No check of a whole command reports the code of no fault. -/
theorem failingCheck_ne_noFault {i : Instr} {s : State} {f : FaultCode}
    (h : failingCheck i s = some f) : f ≠ .noFault := by
  rintro rfl
  simp only [failingCheck, refusedCheck, payloadCheck, phaseCheck, algCheck, boundsCheck] at h
  cases hs : spanOf i <;> simp only [hs] at h <;> split_ifs at h <;> simp_all

/-- What a whole command at `CP` means for the words there. -/
theorem fetch_command {s : State} {i : Instr} (h : fetch s = .command i) :
    s.inst.phase ≠ .faulted ∧ ∃ rest, decode (pendingWords s.inst) = .ok (i, rest) := by
  unfold fetch at h
  split at h
  · cases h
  rename_i hp
  split at h
  · cases h
  rename_i w ws hw
  split at h
  · cases h
  rename_i hd hhd
  split at h
  · cases h
  unfold fetchPayload at h
  split at h
  · rename_i j rest hdp
    injection h with h
    subst h
    exact ⟨hp, rest, by rw [hw]; simp [decode, hhd, hdp]⟩
  · unfold missingWords at h
    split at h <;> cases h
  · cases h

/-- All that a step can do. -/
theorem step_cases {s t : State} (h : step s = .next t) :
    (fetch s = .idle ∧ t = s) ∨ (∃ f, fetch s = .faults f ∧ t = takeFault f s) ∨
    (∃ i, fetch s = .command i ∧ exec i s = .next t) := by
  unfold step at h
  cases hf : fetch s with
  | idle => simp only [hf, Host.Outcome.next.injEq] at h; exact .inl ⟨rfl, h.symm⟩
  | faults f => simp only [hf, Host.Outcome.next.injEq] at h; exact .inr (.inl ⟨f, rfl, h.symm⟩)
  | command i => simp only [hf] at h; exact .inr (.inr ⟨i, rfl, h⟩)

end Sys2Proof.Machine
end

