-- ==== Sys2Proof/Tests/Slice0.lean ====
section
/-! SUPPORT. Small tests: ill-formed commands refused, words written out from 30_encoding.md decoded, one
step of each command against the values of 95_test_vectors.md, and for every obligation with hypotheses
a state and operands that meet them. -/

namespace Sys2Proof.Tests

open Sys2Proof Sys2Proof.Machine

/-! ## Well-formedness refuses -/

/-- R67: exactly `N` payload words. -/
theorem test_chunk_with_too_few_elements_is_ill_formed :
    (Instr.absorbChunkFnv .u8 1 [1#64]).wellFormed = false := by decide

theorem test_chunk_with_too_many_elements_is_ill_formed :
    (Instr.absorbChunkAh .u64 0 [1#64, 2#64]).wellFormed = false := by decide

/-- R67: bits `[63:w]` of a payload word must be 0. -/
theorem test_element_of_nine_bits_is_no_u8 :
    (Instr.absorbChunkFnv .u8 0 [0x100#64]).wellFormed = false := by decide

theorem test_sign_extended_pattern_is_no_i8 :
    (Instr.absorbChunkAh .i8 0 [0xFFFFFFFFFFFFFFFF#64]).wellFormed = false := by decide

theorem test_largest_elements_are_well_formed :
    (Instr.absorbChunkAh .f16 1 [0xFFFF#64, 0#64]).wellFormed = true ∧
    (Instr.absorbChunkFnv .u64 0 [0xFFFFFFFFFFFFFFFF#64]).wellFormed = true := by decide

/-! ## Decoding (30_encoding.md R61, R72; 95_test_vectors.md section 2.8) -/

/-- The header word bit by bit: reserved, NLOG 1, ETYPE 4 (I8), ALG 1, OP 3. -/
theorem test_decode_absorb_chunk_ah :
    decode [0b0000000000000000000000000000000000000000000000000#49 ++ 0b001#3 ++ 0b0100#4 ++ 0b0001#4 ++ 0b0011#4,
      0x80#64, 0x7F#64] = .ok (.absorbChunkAh .i8 1 [0x80#64, 0x7F#64], []) := by decide

theorem test_decode_absorb_chunk_fnv :
    decode [0x1903#64, 0xFFFF#64, 0#64, 9#64] =
      .ok (.absorbChunkFnv .bf16 1 [0xFFFF#64, 0#64], [9#64]) := by decide

theorem test_decode_init_ah :
    decode [0x11#64, 1#64, 2#64, 3#64, 4#64] = .ok (.initAh 1#64 2#64 3#64 4#64, []) := by decide

theorem test_decode_init_fnv :
    decode [0x1#64, 5#64, 6#64, 7#64, 8#64] = .ok (.initFnv 5#64 6#64 7#64 8#64, []) := by decide

theorem test_decode_absorb_bytes_ah :
    decode [0x12#64, 0x2000#64, 17#64] = .ok (.absorbBytesAh 0x2000#64 17#64, []) := by decide

theorem test_decode_absorb_bytes_fnv :
    decode [0x2#64, 0x1000#64, 4#64] = .ok (.absorbBytesFnv 0x1000#64 4#64, []) := by decide

theorem test_decode_finish :
    decode [0x14#64] = .ok (.finishAh, []) ∧ decode [0x4#64] = .ok (.finishFnv, []) := by decide

theorem test_decode_refuses_by_name :
    decode [0x5#64] = .error .illegalOp ∧ decode [0x21#64] = .error .illegalField ∧
    decode [0x8013#64] = .error .illegalField ∧ decode [0xC13#64, 0#64] = .error .illegalField ∧
    decode [0x7013#64] = .error .illegalField ∧ decode [0x101#64] = .error .illegalField ∧
    decode [0x11#64, 0#64, 0#64] = .error .truncated ∧
    decode [0x3#64, 0x100#64] = .error .illegalField := by decide

/-- The codes of R22 and of 60_exceptions.md R120. -/
theorem test_codes_of_phase_and_fault :
    [Phase.empty, .active, .finished, .faulted].map (fun p => (phaseCode p).toNat) = [0, 1, 2, 3] ∧
    [FaultCode.noFault, .illegalOp, .illegalField, .truncated, .sequence, .algMismatch, .bounds,
      .refused].map (fun f => (faultCode f).toNat) = [0, 1, 2, 3, 4, 5, 6, 7] := by decide

/-- The longest command: 64 elements. -/
theorem test_decode_longest_chunk :
    (match decodeTableWord 64 0x6B03 with
      | some i => i.words
      | none => 0) = 65 := by decide +kernel

/-! ## States of the tests -/

/-- An instance that runs an AHash hasher. -/
def runningAh (b p k0 k1 : Word) : Instance :=
  { Instance.atReset 0#64 with
    phase := .active, alg := some .ahash, buffer := some b, pad := some p, ek0 := some k0, ek1 := some k1 }

/-- An instance that runs an FNV-1a hasher. -/
def runningFnv (v : Word) : Instance :=
  { Instance.atReset 0#64 with phase := .active, alg := some .fnv1a, value := some v }

/-- An instance that holds a digest. -/
def holding (d : Word) : Instance :=
  { Instance.atReset 0#64 with phase := .finished, alg := some .ahash, digest := some d }

/-- A machine with one instance over a data memory. -/
def machine (m : Memory) (c : Instance) : State := { State.reset with mem := m, inst := c }

/-- The instance with the given words at `CP`. -/
def fed (ws : List Word) (c : Instance) : Instance := { c with stream := ws }

/-- "abcd" at 0x1000 (95_test_vectors.md section 2.9). -/
def abcd : Memory := [(0x1000, 0x61#8), (0x1001, 0x62#8), (0x1002, 0x63#8), (0x1003, 0x64#8)]

/-- The bytes `0, 1, ..., n-1` from 0x2000 on (section 2.4). -/
def counting (n : Nat) : Memory := (List.range n).map fun k => (0x2000 + k, BitVec.ofNat 8 k)

/-- AHash with the default seed, right after INIT (section 2.4). -/
def freshAh : Instance :=
  runningAh 0x243F6A8885A308D3#64 0x13198A2E03707344#64 0xA4093822299F31D0#64 0x082EFA98EC4E6C89#64

/-- FNV-1a right after INIT. -/
def freshFnv : Instance := runningFnv 0xCBF29CE484222325#64

/-- A register of the instance after an outcome, or `none`. -/
def after (o : Host.Outcome State Fault Refusal) (r : Instance → Option Word) : Option Word :=
  (nextState o).bind fun t => r t.inst

/-- `PHASE` after an outcome. -/
def phaseAfter (o : Host.Outcome State Fault Refusal) : Option Phase :=
  (nextState o).map fun t => t.inst.phase

/-- `FAULT` and `FAULT_CP` after an outcome. -/
def faultAfter (o : Host.Outcome State Fault Refusal) : Option (FaultCode × Word) :=
  (nextState o).map fun t => (t.inst.fault, t.inst.faultCp)

/-! ## One step of each command -/

/-- 95_test_vectors.md, the seeded row of section 2.4. -/
theorem test_init_ah_xors_seed :
    let t := exec (.initAh 0x1111111111111111#64 0x2222222222222222#64 0x3333333333333333#64
      0x4444444444444444#64) State.reset
    after t Instance.buffer = some 0x352E7B9994B219C2#64 ∧ after t Instance.pad = some 0x313BA80C21525166#64 ∧
    after t Instance.ek0 = some 0x973A0B111AAC02E3#64 ∧ after t Instance.ek1 = some 0x4C6ABEDCA80A28CD#64 := by
  decide +kernel

/-- Section 2.9: INIT while ACTIVE. -/
theorem test_init_ah_over_live_hasher :
    faultAfter (exec (.initAh 0#64 0#64 0#64 0#64) (machine [] freshFnv)) = some (.sequence, 0#64) := by
  decide +kernel

/-- 42_fnv1a.md R110, example. -/
theorem test_init_fnv_ignores_seed :
    let t := exec (.initFnv 1#64 2#64 3#64 4#64) (machine [] (holding 7#64))
    after t Instance.value = some 0xCBF29CE484222325#64 ∧ after t Instance.digest = none := by
  decide +kernel

/-- Section 2.4, row 17: the tail lane first, then one forward block. -/
theorem test_absorb_bytes_ah_17 :
    after (exec (.absorbBytesAh 0x2000#64 17#64) (machine (counting 17) freshAh)) Instance.buffer =
      some 0x794603E79264ADC8#64 := by decide +kernel

/-- Section 2.4, rows 0 (span not in memory) and 9. -/
theorem test_absorb_bytes_ah_short :
    after (exec (.absorbBytesAh 0x9999#64 0#64) (machine [] freshAh)) Instance.buffer =
      some 0x4614D34EAF145826#64 ∧
    after (exec (.absorbBytesAh 0x2000#64 9#64) (machine (counting 9) freshAh)) Instance.buffer =
      some 0x5A48FEACED37B25D#64 := by decide +kernel

/-- Section 2.6, "abcd". -/
theorem test_absorb_bytes_fnv_abcd :
    after (exec (.absorbBytesFnv 0x1000#64 4#64) (machine abcd freshFnv)) Instance.value =
      some 0xFC179F83EE0724DD#64 := by decide +kernel

/-- Section 2.9: a span past 2^64. -/
theorem test_absorb_bytes_fnv_bounds :
    faultAfter (exec (.absorbBytesFnv 0xFFFFFFFFFFFFFFFF#64 2#64) (machine abcd freshFnv)) =
      some (.bounds, 0#64) := by decide +kernel

/-- Section 2.5, one element: a word update. -/
theorem test_absorb_chunk_ah_one :
    after (exec (.absorbChunkAh .u64 0 [1#64]) (machine [] freshAh)) Instance.buffer =
      some 0x621E1028BCF8A6BE#64 := by decide +kernel

/-- Section 2.5, `i8x2 -1, 1` under SIGN and under ZERO. -/
theorem test_absorb_chunk_ah_signed :
    after (exec (.absorbChunkAh .i8 1 [0xFF#64, 1#64]) (machine [] freshAh)) Instance.buffer =
      some 0x85D94940EEA5F67A#64 ∧
    after (exec (.absorbChunkAh .i8 1 [0xFF#64, 1#64])
      { machine [] freshAh with params := { Config.defaults with signedExt := .zero } }) Instance.buffer =
      some 0xEA3413CB8838FDDA#64 := by decide +kernel

/-- Section 2.7, `u32x4 1, 2, 3, 4`: whole elements, in order. -/
theorem test_absorb_chunk_fnv_order :
    after (exec (.absorbChunkFnv .u32 2 [1#64, 2#64, 3#64, 4#64]) (machine [] freshFnv)) Instance.value =
      some 0xBE7A5E775165785D#64 := by decide +kernel

/-- Section 2.7, `i8x1 -1` under SIGN. -/
theorem test_absorb_chunk_fnv_signed :
    after (exec (.absorbChunkFnv .i8 0 [0xFF#64]) (machine [] freshFnv)) Instance.value =
      some 0x509C41B379FE466E#64 := by decide +kernel

/-- Section 2.4, "(none)": FINISH right after INIT, `rot = 19`. -/
theorem test_finish_ah :
    let t := exec .finishAh (machine [] freshAh)
    after t Instance.digest = some 0x12AC5FBE795F9C56#64 ∧ after t Instance.buffer = none ∧
      phaseAfter t = some .finished := by decide +kernel

/-- Section 2.4, byte 0x7F: the corner `rot = 0`. -/
theorem test_finish_ah_rot_0 :
    after (exec .finishAh (machine [] { freshAh with buffer := some 0xD0D587B6A3EC6780#64 }))
      Instance.digest = some 0xDB61A1D49A09DF6A#64 := by decide +kernel

/-- V1 of 95_test_vectors.md, the golden vector. -/
theorem test_finish_fnv_golden :
    after (exec .finishFnv (machine [] freshFnv)) Instance.digest = some 0xCBF29CE484222325#64 := by
  decide +kernel

/-- P4 of 95_test_vectors.md: a second FINISH. -/
theorem test_finish_fnv_twice :
    faultAfter (exec .finishFnv (machine [] (holding 7#64))) = some (.sequence, 0#64) := by
  decide +kernel

/-! ## The fetch of one step -/

/-- The first command after reset, from the opcode table's numbering. -/
theorem test_step_runs_the_fetched_word :
    phaseAfter (step (State.reset.withFetchWord 64 0x11)) = some .active ∧
    (nextState (step (State.reset.withFetchWord 64 0x11))).map (fun t => t.inst.cp) = some 5#64 := by
  decide +kernel

/-- P2 and P4 of 95_test_vectors.md: `STATUS` at their ends. -/
theorem test_status_word :
    statusWord (holding 0x62F750F1A6DBF0E2#64) = 0x12#64 ∧
    statusWord { freshFnv with phase := .faulted, fault := .sequence } = 0x403#64 := by decide

/-- Section 2.9: the payload check comes before the phase check; a truncated finite stream. -/
theorem test_step_checks_in_order :
    faultAfter (step (machine [] (fed [0x3#64, 0x100#64] (Instance.atReset 0#64)))) =
      some (.illegalField, 0#64) ∧
    faultAfter (step (machine [] { fed [0x11#64, 0#64, 0#64] (Instance.atReset 0#64) with
      ended := true })) = some (.truncated, 0#64) := by decide +kernel

/-! ## Witnesses: for each obligation with hypotheses, what meets them

A theorem names the obligation, and has one line for each clause, at the ends of its range. -/

/-- A legal finite-or-live stream in an instance after reset. -/
def waiting (ws : List Word) : State := machine abcd (fed ws (Instance.atReset 0#64))

/-- An instance stopped by a fault. -/
def stopped : State :=
  machine abcd { freshFnv with phase := .faulted, fault := .bounds, faultCp := 0#64 }

/-- Under `AHASH_CHUNK_MODE = REFUSE`. -/
def refusing (c : Instance) : State :=
  { machine abcd c with params := { Config.defaults with chunkMode := .refuse } }

theorem test_witness_DecodeOfEncode :
    (Instr.absorbChunkAh .i8 0 [0xFF#64]).wellFormed = true ∧ Instr.finishFnv.wellFormed = true := by decide

theorem test_witness_EncodeOfDecode :
    decode [0x14#64, 3#64] = .ok (.finishAh, [3#64]) := by decide

theorem test_witness_IllegalEncodingsFault :
    (2 ^ (0 : Fin 7).val ≤ [5#64].length ∧
      0x100#64 ∈ [0x100#64].take (2 ^ (0 : Fin 7).val) ∧ 2 ^ EType.u8.width ≤ (0x100#64 : Word).toNat) ∧
    (pendingWords (waiting [0x0#64]).inst = [0x0#64] ∧ decodeHeader 0x0#64 = .error .illegalOp) ∧
    decodeHeader 0x1F#64 = .error .illegalOp ∧ decodeHeader 0x21#64 = .error .illegalField ∧
    decodeHeader 0x8000000000000014#64 = .error .illegalField ∧
    (decodeHeader 0x3#64 = .ok (.absorbChunk .fnv1a .u8 0) ∧
      refusedCheck Config.defaults .absorbChunk .fnv1a = none ∧
      decodePayload (.absorbChunk .fnv1a .u8 0) [0x100#64] = .error .illegalField) ∧
    (decodeHeader 0x6B13#64 = .ok (.absorbChunk .ahash .f64 6) ∧
      (refusing freshAh).params.chunkMode = .refuse ∧ (refusing freshAh).inst.phase ≠ .faulted) := by decide

theorem test_witness_CommandLengthFromHeader :
    decode [0x11#64, 0#64, 0#64, 0#64, 0#64] = .ok (.initAh 0#64 0#64 0#64 0#64, []) ∧
    decode [0x12#64, 0#64, 0#64] = .ok (.absorbBytesAh 0#64 0#64, []) ∧
    decode [0x3#64, 255#64, 1#64] = .ok (.absorbChunkFnv .u8 0 [255#64], [1#64]) ∧
    (opField 0x6B03#64).toNat = 3 ∧ decode [0x4#64] = .ok (.finishFnv, []) ∧
    (opField 0#64).toNat = 0 ∧ 5 ≤ (opField 5#64).toNat ∧
    ((waiting [5#64]).inst.phase ≠ .faulted ∧ pendingWords (waiting [5#64]).inst = [5#64]) := by decide

/-- For MemReadLittleEndian, ByteSwapReversesBytes, RotateLeftMovesBits and ElementWideningBits. -/
theorem test_witness_PrimitiveRanges :
    (1 ∈ [1, 2, 4, 8] ∧ 8 ∈ [1, 2, 4, 8]) ∧ 0 < 8 ∧ 7 < 8 ∧ 63 < 64 ∧ 0 % 64 = 0 ∧ 64 % 64 = 0 ∧
    1 % 64 ≠ 0 ∧ 63 % 64 ≠ 0 ∧ EType.f64.width = 64 := by decide

/-- The four branches at their ends, and another memory with the same bytes in the span. -/
theorem test_witness_ReadSmallPacksSpan :
    ((4 : Nat) ≤ 8 ∧ 4 ≤ 4) ∧ ((2 : Nat) ≤ 2 ∧ 3 < 4) ∧ (0 : Nat) ≤ 8 ∧
    ∀ k < 4, memByte (abcd ++ [(0x1004, 0#8)]) (0x1000 + k) = memByte abcd (0x1000 + k) := by decide

theorem test_witness_LaneReadsPlaceBytes : (9 : Nat) ≤ 9 ∧ 16 ≤ 16 ∧ 0 < 8 ∧ 7 < 8 := by decide

theorem test_witness_StepRunsDecodedCommand :
    decode (pendingWords (waiting [0x1#64, 0#64, 0#64, 0#64, 0#64, 0x4#64]).inst) =
      .ok (.initFnv 0#64 0#64 0#64 0#64, [0x4#64]) := by decide

theorem test_witness_IncompleteCommandWaitsOrTruncates :
    pendingWords State.reset.inst = [] ∧
    (decodeHeader 0x2#64 = .ok (.absorbBytes .fnv1a) ∧
      pendingWords (waiting [0x2#64, 1#64]).inst = 0x2#64 :: [1#64] ∧
      refusedCheck Config.defaults .absorbBytes .fnv1a = none ∧
      [1#64].length < (Header.absorbBytes .fnv1a).payloadWords ∧
      (waiting [0x2#64, 1#64]).inst.ended = false ∧
      (Machine.endStream (waiting [0x2#64, 1#64])).inst.ended = true) := by decide

theorem test_witness_ChecksRunInOrder :
    (decodeHeader 0x5#64 = .error .illegalOp ∧ decodeHeader 0x7013#64 = .error .illegalField) ∧
    (decodeHeader 0x313#64 = .ok (.absorbChunk .ahash .u64 0) ∧
      refusedCheck (refusing freshAh).params .absorbChunk .ahash = some .refused ∧
      refusedCheck Config.defaults .absorbChunk .ahash = none) ∧
    (([] : List Word).length < (Header.absorbChunk .ahash .u64 0).payloadWords ∧
      (Header.absorbChunk .ahash .u64 0).payloadWords ≤ [5#64].length) ∧
    decodePayload (.absorbChunk .fnv1a .i8 0) [0x80000000000000FF#64] = .error .illegalField ∧
    (decode [0x313#64, 5#64] = .ok (.absorbChunkAh .u64 0 [5#64], []) ∧
      phaseAllows .empty .absorbChunk = false ∧ phaseAllows .active .absorbChunk = true) ∧
    (freshFnv.alg ≠ some (Instr.absorbChunkAh .u64 0 [5#64]).alg ∧
      freshAh.alg = some (Instr.absorbChunkAh .u64 0 [5#64]).alg) ∧
    (spanOf (.absorbBytesAh 0x1001#64 4#64) = some (0x1001#64, 4#64) ∧
      admitted abcd 0x1001#64 4#64 = false ∧ admitted abcd 0x1000#64 4#64 = true) ∧
    ((machine abcd freshAh).params = (machine abcd { freshAh with digest := some 1#64 }).params ∧
      pendingWords (fed [0x4#64] freshAh) = pendingWords (fed [0x4#64] freshFnv)) := by decide

theorem test_witness_PhaseTable :
    (Instr.finishAh.wellFormed = true ∧ refusedCheck Config.defaults .finish .ahash = none) ∧
    (Instance.atReset 0#64).phase = .empty ∧ (holding 1#64).phase = .finished ∧
    (freshAh.phase = .active ∧ freshAh.alg = some Instr.finishAh.alg ∧
      boundsCheck abcd .finishAh = none ∧ boundsCheck abcd (.absorbBytesAh 0#64 0#64) = none) ∧
    stopped.inst.phase = .faulted := by decide

theorem test_witness_AlgorithmMismatchFaults :
    (freshFnv.phase = .active ∧ Instr.finishAh.op ≠ .init ∧ freshFnv.alg ≠ some Instr.finishAh.alg) ∧
    ((Instr.initAh 0#64 0#64 0#64 0#64).op = .init ∧ (holding 1#64).phase = .finished ∧
      (Instance.atReset 0#64).phase = .empty) := by decide

theorem test_witness_SpanOutsideMemoryFaults :
    Memory.wf abcd = true ∧ admitted [] 0xFFFFFFFFFFFFFFFF#64 0#64 = true ∧
    admitted [(2 ^ 64 - 1, 7#8)] 0xFFFFFFFFFFFFFFFF#64 1#64 = true ∧
    admitted [(0, 7#8), (2 ^ 64 - 1, 7#8)] 0xFFFFFFFFFFFFFFFF#64 2#64 = false ∧
    admitted abcd 0x1001#64 4#64 = false ∧
    (freshFnv.phase = .active ∧ freshFnv.alg = some .fnv1a) ∧
    (freshAh.phase = .active ∧ freshAh.alg = some .ahash) := by decide

theorem test_witness_RefuseModeFaultsAHashChunks :
    (refusing freshFnv).params.chunkMode = .refuse ∧ (refusing freshFnv).inst.phase ≠ .faulted := by decide

theorem test_witness_FaultEntryIsPrecise :
    FaultCode.sequence ≠ .noFault ∧ State.reset.inst.phase ≠ .faulted ∧
    failingCheck .finishFnv State.reset = some .sequence ∧
    State.reset.inst.base.toNat + blockBytes ≤ 2 ^ 64 ∧
    (Instance.atReset 0xFFFFFFFFFFFFFFC0#64).base.toNat + blockBytes ≤ 2 ^ 64 := by decide

theorem test_witness_OnlyResetLeavesFaulted :
    stopped.inst.phase = .faulted ∧
    (∃ t, hostAct .endStream stopped = .next t) ∧ (∃ t, hostAct (.write 0#64 64 5#64) stopped = .next t) ∧
    (∃ t, hostAct (.read 8#64 64) stopped = .next t) ∧ (∃ t, hostAct (.store 0x1000#64 1#8) stopped = .next t) ∧
    (∃ t, hostAct (.select 0) { stopped with others := [freshAh] } = .next t) :=
  ⟨rfl, ⟨_, rfl⟩, ⟨_, rfl⟩, ⟨_, rfl⟩, ⟨_, rfl⟩, ⟨_, rfl⟩⟩

theorem test_witness_ResetValues : stopped.inst.base.toNat + blockBytes ≤ 2 ^ 64 := by decide

theorem test_witness_FaultRegistersWrittenByFaults :
    (∃ t, step (waiting [0x4#64]) = .next t) ∧
    (HostEvent.endStream ≠ .reset ∧ HostEvent.endStream ≠ .resetAll ∧
      ∃ t, hostAct .endStream stopped = .next t) ∧
    (freshAh.fault = .noFault ∧ stopped.inst.fault ≠ .noFault) :=
  ⟨⟨_, rfl⟩, ⟨by decide, by decide, _, rfl⟩, by decide⟩

/-- For InitAhCompletes and InitFnvCompletes. -/
theorem test_witness_InitCompletes :
    State.reset.inst.phase = .empty ∧ (machine abcd (holding 1#64)).inst.phase = .finished := by decide

theorem test_witness_AbsorbBytesAhCompletes :
    let s := machine (counting 17) freshAh
    s.inst.phase = .active ∧ s.inst.alg = some .ahash ∧ s.inst.buffer = some 0x243F6A8885A308D3#64 ∧
    s.inst.pad = some 0x13198A2E03707344#64 ∧ s.inst.ek0 = some 0xA4093822299F31D0#64 ∧
    s.inst.ek1 = some 0x082EFA98EC4E6C89#64 ∧ s.inst.cp.toNat ∉ s.inst.spoiled ∧
    (∀ n ∈ [0, 8, 9, 16, 17], admitted s.mem 0x2000#64 (BitVec.ofNat 64 n) = true) := by decide

theorem test_witness_AbsorbBytesFnvCompletes :
    let s := machine abcd freshFnv
    s.inst.phase = .active ∧ s.inst.alg = some .fnv1a ∧ s.inst.value = some 0xCBF29CE484222325#64 ∧
    s.inst.cp.toNat ∉ s.inst.spoiled ∧ admitted s.mem 0x1000#64 4#64 = true ∧
    admitted s.mem 0x9999#64 0#64 = true := by decide

/-- One element, and the longest chunk. -/
theorem test_witness_AbsorbChunkAhCompletes :
    (Instr.absorbChunkAh .i8 0 [0xFF#64]).wellFormed = true ∧
    (Instr.absorbChunkAh .f64 6 (List.replicate 64 1#64)).wellFormed = true ∧
    (machine abcd freshAh).params.chunkMode = .pairwise ∧ freshAh.phase = .active ∧
    freshAh.alg = some .ahash ∧ freshAh.buffer = some 0x243F6A8885A308D3#64 ∧
    freshAh.pad = some 0x13198A2E03707344#64 ∧ freshAh.ek0 = some 0xA4093822299F31D0#64 ∧
    freshAh.ek1 = some 0x082EFA98EC4E6C89#64 := by decide

theorem test_witness_AbsorbChunkFnvCompletes :
    (Instr.absorbChunkFnv .u8 0 [0xFF#64]).wellFormed = true ∧
    (Instr.absorbChunkFnv .u16 6 (List.replicate 64 0xFFFF#64)).wellFormed = true ∧
    freshFnv.phase = .active ∧ freshFnv.alg = some .fnv1a ∧
    freshFnv.value = some 0xCBF29CE484222325#64 := by decide

theorem test_witness_FinishAhCompletes :
    freshAh.phase = .active ∧ freshAh.alg = some .ahash ∧ freshAh.buffer = some 0x243F6A8885A308D3#64 ∧
    freshAh.pad = some 0x13198A2E03707344#64 ∧ freshAh.tainted = false := by decide

theorem test_witness_FinishFnvCompletes :
    freshFnv.phase = .active ∧ freshFnv.alg = some .fnv1a ∧
    freshFnv.value = some 0xCBF29CE484222325#64 ∧ freshFnv.tainted = false := by decide

theorem test_witness_SpoiledSpanLeavesDraw :
    let m := fun c : Instance => machine abcd { c with spoiled := [0] }
    ((m freshAh).inst.phase = .active ∧ (m freshAh).inst.cp.toNat ∈ (m freshAh).inst.spoiled ∧
      admitted (m freshAh).mem 0x1000#64 4#64 = true ∧ (m freshAh).inst.alg = some .ahash) ∧
    ((m freshFnv).inst.phase = .active ∧ (m freshFnv).inst.cp.toNat ∈ (m freshFnv).inst.spoiled ∧
      (m freshFnv).inst.alg = some .fnv1a) := by decide

theorem test_witness_TaintedHasherDigestIsDraw :
    let m := fun c : Instance => machine abcd { c with tainted := true }
    ((m freshAh).inst.phase = .active ∧ (m freshAh).inst.tainted = true ∧ (m freshAh).inst.alg = some .ahash) ∧
    ((m freshFnv).inst.phase = .active ∧ (m freshFnv).inst.alg = some .fnv1a) := by decide

/-- "ab" and "cd" against "abcd". -/
theorem test_witness_FnvConcatenationLaw :
    let s := machine abcd freshFnv
    let spans : List (Word × Word) := [(0x1000#64, 2#64), (0x1002#64, 2#64)]
    s.inst.phase = .active ∧ s.inst.alg = some .fnv1a ∧ s.inst.value = some 0xCBF29CE484222325#64 ∧
    s.inst.spoiled = [] ∧ (∀ q ∈ spans, admitted s.mem q.1 q.2 = true) ∧
    admitted s.mem 0x1000#64 4#64 = true ∧
    ((List.range (4#64 : Word).toNat).map fun k => memByte s.mem ((0x1000#64 : Word).toNat + k)) =
      (spans.flatMap fun q => (List.range q.2.toNat).map fun k => memByte s.mem (q.1.toNat + k)) :=
  ⟨rfl, rfl, rfl, rfl, List.all_eq_true.1 (by decide), by decide, by decide⟩

theorem test_witness_FnvByteChunkEqualsBytes :
    let s := machine abcd freshFnv
    (Instr.absorbChunkFnv .u8 2 [0x61#64, 0x62#64, 0x63#64, 0x64#64]).wellFormed = true ∧
    s.inst.phase = .active ∧ s.inst.alg = some .fnv1a ∧ s.inst.value = some 0xCBF29CE484222325#64 ∧
    s.inst.cp.toNat ∉ s.inst.spoiled ∧ admitted s.mem 0x1000#64 4#64 = true ∧
    [0x61#64, 0x62#64, 0x63#64, 0x64#64] = ((List.range (4#64 : Word).toNat).map fun k =>
      (memByte s.mem ((0x1000#64 : Word).toNat + k)).setWidth 64) := by decide

theorem test_witness_HashBytesGivesDigest :
    (waiting []).inst.phase = .empty ∧ (waiting []).inst.spoiled = [] ∧
    (machine abcd (holding 1#64)).inst.phase = .finished ∧ admitted abcd 0x1000#64 4#64 = true := by decide

/-- For NoCommandWritesDataMemory, InstancesShareNothing and StepKeepsInvariant: a command and a step
that answer a next state, in a state with the invariant. -/
theorem test_witness_NextStates :
    (∃ t, exec (.absorbBytesAh 0x1000#64 4#64) (machine abcd freshAh) = .next t) ∧
    (∃ t, step (machine abcd (fed [0x12#64, 0x1000#64, 4#64] freshAh)) = .next t) ∧
    (machine abcd (fed [0x12#64, 0x1000#64, 4#64] freshAh)).inv = true ∧ stopped.inv = true ∧
    (machine abcd (holding 1#64)).inv = true :=
  ⟨⟨_, rfl⟩, ⟨_, rfl⟩, by decide, by decide, by decide⟩

theorem test_witness_RegistersWrittenByCommands :
    phaseAfter (exec .finishAh (machine [] freshAh)) = some .finished ∧
    phaseAfter (exec .finishAh (machine [] freshFnv)) = some .faulted ∧
    (Instr.finishFnv.op ≠ .init ∧ Instr.finishFnv ≠ .finishAh ∧ Instr.finishFnv.alg = .fnv1a) ∧
    ((Instr.absorbBytesAh 0#64 0#64).op ≠ .init ∧ (Instr.absorbBytesAh 0#64 0#64).op ≠ .finish ∧
      (Instr.absorbBytesAh 0#64 0#64).alg = .ahash) := by decide +kernel

theorem test_witness_InstanceStepsCommute : 0 < [freshFnv].length := by decide

/-- Another memory with the same bytes in the span of the command at `CP`, and other bytes outside. -/
theorem test_witness_StepDependsOnSpanBytesOnly :
    let s := machine abcd (fed [0x12#64, 0x1000#64, 4#64] freshAh)
    let m : Memory := (7, 1#8) :: abcd
    Memory.wf s.mem = true ∧ Memory.wf m = true ∧
    decode (pendingWords s.inst) = .ok (.absorbBytesAh 0x1000#64 4#64, []) ∧
    (∀ k < (4#64 : Word).toNat, Memory.lookup m ((0x1000#64 : Word).toNat + k) =
      Memory.lookup s.mem ((0x1000#64 : Word).toNat + k)) ∧ ∃ t, step s = .next t :=
  ⟨by decide, by decide, by decide, by decide, _, rfl⟩

theorem test_witness_HostEventsKeepInvariant :
    stopped.inv = true ∧ State.reset.inv = true ∧
    (∃ t, hostAct (.write 0#64 64 5#64) State.reset = .next t) ∧
    (∃ t, hostAct (.read 0x18#64 64) State.reset = .next t) ∧ (∃ t, hostAct .resetAll stopped = .next t) ∧
    (∃ t, hostAct (.select 0) { State.reset with others := [freshAh] } = .next t) :=
  ⟨by decide, by decide, ⟨_, rfl⟩, ⟨_, rfl⟩, ⟨_, rfl⟩, ⟨_, rfl⟩⟩

theorem test_witness_FiniteStreamEnds :
    let s := Machine.endStream (waiting [0x1#64, 0#64, 0#64, 0#64, 0#64, 0x4#64])
    s.inv = true ∧ s.inst.ended = true := by decide

theorem test_witness_StatusFields :
    (freshAh.alg = some .ahash ∧ freshAh.phase ≠ .empty) ∧
    (freshFnv.alg = some .fnv1a ∧ freshFnv.phase ≠ .empty) ∧ (Instance.atReset 0#64).alg = none ∧
    (Instance.atReset 0xFFFFFFFFFFFFFFC0#64).base.toNat + blockBytes ≤ 2 ^ 64 := by decide

/-- For RegisterBlockMap and HostAccessRules: each clause at the ends of its range. -/
theorem test_witness_RegisterBlockMap :
    State.reset.inst.base.toNat + blockBytes ≤ 2 ^ 64 ∧
    (State.reset.inst.phase ≠ .faulted ∧ State.reset.inst.ended = false ∧
      State.reset.inst.stream.length + 1 < 2 ^ 64) ∧
    ((holding 1#64).phase = .finished ∧ (holding 1#64).digest = some 1#64) ∧ freshAh.phase ≠ .finished ∧
    (1 < 0x40 ∧ 1 % 8 ≠ 0 ∧ 0x3F < 0x40 ∧ 0x3F % 8 ≠ 0) ∧ ((32 : Nat) ≠ 64 ∧ 0x28 ≤ 0x28) ∧
    statusWord { freshAh with alg := some .ahash } = statusWord freshAh := by decide

theorem test_witness_CmdWordsAreDeliveredInOrder :
    (∃ c, writeCmd 5#64 stopped.inst = .next c) ∧ stopped.inst.phase = .faulted ∧
    (∃ c, writeCmd 5#64 freshAh = .next c) ∧ freshAh.phase ≠ .faulted ∧
    freshAh.cp.toNat ≤ freshAh.stream.length :=
  ⟨⟨_, rfl⟩, rfl, ⟨_, rfl⟩, by decide, by decide⟩

theorem test_witness_HostStorePlacesOneByte :
    { State.reset with others := [freshAh, freshFnv] }.others[1]? = some freshFnv := by decide

/-- A span behind another whole command, its first and its last byte; an incomplete command. -/
theorem test_witness_HostStoreSpoilsPendingSpans :
    let before : List Instr := [.absorbBytesFnv 0#64 0#64]
    let i : Instr := .absorbBytesFnv 0x1000#64 4#64
    let s := machine abcd (fed [0x2#64, 0#64, 0#64, 0x2#64, 0x1000#64, 4#64] freshFnv)
    (∀ j ∈ before, j.wellFormed = true) ∧ i.wellFormed = true ∧
    pendingWords s.inst = before.flatMap encode ++ encode i ++ [] ∧
    spanOf i = some (0x1000#64, 4#64) ∧ (0x1000#64 : Word).toNat ≤ (0x1003#64 : Word).toNat ∧
    (0x1003#64 : Word).toNat < (0x1000#64 : Word).toNat + (4#64 : Word).toNat ∧
    decode (pendingWords (waiting [0x2#64, 0x1000#64]).inst) = .error .truncated := by decide

/-- A line that is accepted, and each kind of operand at the ends of its range. -/
theorem test_witness_AssemblerGivesWellFormed :
    assembleLine Config.defaults "finish.ah".toList = some [.finishAh] ∧
    (255 < 2 ^ EType.u8.width ∧ 2 ^ EType.u8.width ≤ 256) ∧
    (EType.i8.isSigned = true ∧ 1 ≤ 1 ∧ 128 ≤ 2 ^ (EType.i8.width - 1) ∧
      2 ^ (EType.i8.width - 1) < 129 ∧ EType.f16.isSigned = false) ∧
    (2 ^ 64 - 1 < 2 ^ 64 ∧ [Numeral.plain 1].length ≠ 2 ^ (1 : Fin 7).val) ∧
    (Numeral.plain 256 ∈ [Numeral.plain 256] ∧ elementOperand .u8 (.plain 256) = none) ∧
    ([Numeral.plain 7].map (elementOperand .u8) = [7#64].map some ∧ [7#64].length = 2 ^ (0 : Fin 7).val) ∧
    (algName "ah".toList = some .ahash ∧ chunkShape "f64x64".toList = some (.f64, 6)) ∧
    ([Numeral.plain 1].length ≠ 0 ∧ [Numeral.plain 1].length ≠ 4 ∧ [Numeral.plain 1].length ≠ 2) := by
  decide +kernel

end Sys2Proof.Tests
end

section
/-! SUPPORT. The proofs about 10_state.md: what a step and an outside event can do to an instance's
registers, the fields of `STATUS`, and what a host write to the stepped instance's block does. -/

namespace Sys2Proof.Machine

/-! ## What no effect of a command touches -/

@[simp] theorem effectOf_fault (i : Instr) (s : State) : (effectOf i s).inst.fault = s.inst.fault := by
  cases i <;> simp [effectOf]

@[simp] theorem effectOf_faultCp (i : Instr) (s : State) :
    (effectOf i s).inst.faultCp = s.inst.faultCp := by
  cases i <;> simp [effectOf]

@[simp] theorem effectOf_mem (i : Instr) (s : State) : (effectOf i s).mem = s.mem := by
  cases i <;> rfl

@[simp] theorem effectOf_others (i : Instr) (s : State) : (effectOf i s).others = s.others := by
  cases i <;> rfl

/-! ## What a step can do -/

theorem faultOfError_ne_noFault (e : DecodeError) : faultOfError e ≠ .noFault := by
  cases e <;> decide

theorem refusedCheck_eq_some {p : Config.Params} {op : Op} {a : Alg} {f : FaultCode}
    (h : refusedCheck p op a = some f) : f = .refused := by
  unfold refusedCheck at h
  split at h <;> cases h
  rfl

theorem fetchPayload_faults {c : Instance} {hd : Header} {ws : List Word} {f : FaultCode}
    (h : fetchPayload c hd ws = .faults f) : f ≠ .noFault := by
  unfold fetchPayload at h
  split at h
  · cases h
  · unfold missingWords at h
    split at h <;> cases h
    decide
  · cases h
    exact faultOfError_ne_noFault _

/-- The checks before there is a whole command are made outside FAULTED only, and each of them reports
the code of a fault. -/
theorem fetch_faults {s : State} {f : FaultCode} (h : fetch s = .faults f) :
    s.inst.phase ≠ .faulted ∧ f ≠ .noFault := by
  unfold fetch at h
  split at h
  · cases h
  rename_i hp
  refine ⟨hp, ?_⟩
  split at h
  · cases h
  split at h
  · cases h
    exact faultOfError_ne_noFault _
  split at h
  · rename_i hr
    cases h
    rw [refusedCheck_eq_some hr]
    decide
  · exact fetchPayload_faults h

/-- All that a step can do: keep the state, take a fault, or run the effect of a command whose checks
all pass. -/
theorem step_outcomes {s t : State} (h : step s = .next t) :
    t = s ∨ (s.inst.phase ≠ .faulted ∧ ∃ f, f ≠ .noFault ∧ t = takeFault f s) ∨
    (s.inst.phase ≠ .faulted ∧
      ∃ i, fetch s = .command i ∧ failingCheck i s = none ∧ t = effectOf i s) := by
  obtain ⟨-, rfl⟩ | ⟨f, hf, rfl⟩ | ⟨i, hi, he⟩ := step_cases h
  · exact .inl rfl
  · obtain ⟨hp, hne⟩ := fetch_faults hf
    exact .inr (.inl ⟨hp, f, hne, rfl⟩)
  · obtain ⟨-, rfl⟩ | ⟨hp, f, hf, rfl⟩ | ⟨hp, hc, rfl⟩ := exec_cases he
    · exact .inl rfl
    · exact .inr (.inl ⟨hp, f, failingCheck_ne_noFault hf, rfl⟩)
    · exact .inr (.inr ⟨hp, i, hi, hc, rfl⟩)

/-! ## A step under another list of other instances -/

/-- The machine with another list of other instances. -/
def State.withOthers (o : List Instance) (s : State) : State := { s with others := o }

theorem fetch_withOthers (o : List Instance) (s : State) : fetch (s.withOthers o) = fetch s := rfl

theorem failingCheck_withOthers (o : List Instance) (i : Instr) (s : State) :
    failingCheck i (s.withOthers o) = failingCheck i s := rfl

theorem takeFault_withOthers (o : List Instance) (f : FaultCode) (s : State) :
    takeFault f (s.withOthers o) = (takeFault f s).withOthers o := rfl

theorem effectOf_withOthers (o : List Instance) (i : Instr) (s : State) :
    effectOf i (s.withOthers o) = (effectOf i s).withOthers o := by
  cases i <;> rfl

theorem exec_withOthers {i : Instr} {s t : State} (o : List Instance) (h : exec i s = .next t) :
    exec i (s.withOthers o) = .next (t.withOthers o) := by
  rw [exec_eq_attempt]
  obtain ⟨hp, rfl⟩ | ⟨hp, f, hf, rfl⟩ | ⟨hp, hf, rfl⟩ := exec_cases h
  · exact attempt_faulted hp
  · rw [← takeFault_withOthers]
    exact attempt_fault hp hf
  · rw [← effectOf_withOthers]
    exact attempt_effect hp hf

theorem step_withOthers {s t : State} (o : List Instance) (h : step s = .next t) :
    step (s.withOthers o) = .next (t.withOthers o) := by
  unfold step
  rw [fetch_withOthers]
  obtain ⟨hf, rfl⟩ | ⟨f, hf, rfl⟩ | ⟨i, hf, he⟩ := step_cases h
  · rw [hf]
  · rw [hf, ← takeFault_withOthers]
  · rw [hf]
    exact exec_withOthers o he

/-- A step changes neither the data memory nor another instance. -/
theorem step_frame {s t : State} (h : step s = .next t) : t.others = s.others ∧ t.mem = s.mem := by
  obtain rfl | ⟨-, f, -, rfl⟩ | ⟨-, i, -, -, rfl⟩ := step_outcomes h
  · exact ⟨rfl, rfl⟩
  · exact ⟨takeFault_others f s, takeFault_mem f s⟩
  · exact ⟨effectOf_others i s, effectOf_mem i s⟩

/-! ## What an outside event can do to the stepped instance -/

/-- Replacing an instance replaces the stepped one or leaves it as it is. -/
theorem setInstance_inst_cases {s : State} {k : Nat} {c : Instance} (c' : Instance)
    (h : s.instances[k]? = some c) :
    (c = s.inst ∧ (s.setInstance k c').inst = c') ∨ (s.setInstance k c').inst = s.inst := by
  cases k with
  | zero => exact .inl ⟨(Option.some.inj h).symm, rfl⟩
  | succ k => exact .inr rfl

/-- All that an outside event other than a reset and a selection can do to the stepped instance: nothing,
one word more in its stream, one draw more, marks of spans, or the end of its stream. -/
theorem hostAct_inst_cases {e : HostEvent} {s t : State} (hr : e ≠ .reset) (hra : e ≠ .resetAll)
    (hs : ∀ k, e ≠ .select k) (h : hostAct e s = .next t) :
    t.inst = s.inst ∨
    (s.inst.phase ≠ .faulted ∧ ∃ v, t.inst = { s.inst with stream := s.inst.stream ++ [v] }) ∨
    t.inst = countDraw s.inst ∨ (∃ a, t.inst = noteStore a s.inst) ∨
    t.inst = { s.inst with ended := true } := by
  cases e with
  | write addr width v =>
    obtain ⟨k, c, c', -, hc, hw, rfl⟩ := hostWrite_cases h
    obtain ⟨rfl, hi⟩ | hi := setInstance_inst_cases c' hc
    · rw [hi]
      obtain ⟨-, rfl⟩ | ⟨hp, -, -, rfl⟩ := writeCmd_cases hw
      · exact .inl rfl
      · exact .inr (.inl ⟨hp, v, rfl⟩)
    · exact .inl hi
  | read addr width =>
    simp only [hostAct] at h
    split at h <;> cases h
    rename_i hread
    obtain ⟨k, c, c', r, -, hc, hrd, rfl⟩ := hostRead_cases hread
    obtain ⟨rfl, hi⟩ | hi := setInstance_inst_cases c' hc
    · rw [hi]
      obtain rfl | rfl := readRegister_cases hrd
      · exact .inl rfl
      · exact .inr (.inr (.inl rfl))
    · exact .inl hi
  | store a b =>
    cases h
    exact .inr (.inr (.inr (.inl ⟨a.toNat, rfl⟩)))
  | select k => exact absurd rfl (hs k)
  | reset => exact absurd rfl hr
  | resetAll => exact absurd rfl hra
  | endStream =>
    cases h
    exact .inr (.inr (.inr (.inr rfl)))

/-! ## The fields of STATUS (R32) -/

/-- `STATUS` as the sum of its fields at their places. -/
theorem statusWord_toNat (c : Instance) :
    (statusWord c).toNat = (phaseCode c.phase).toNat + 2 ^ 4 * (statusAlg c).toNat +
      2 ^ 8 * (faultCode c.fault).toNat := by
  have append_toNat {m n : Nat} (x : BitVec m) (y : BitVec n) :
      (x ++ y).toNat = x.toNat * 2 ^ n + y.toNat := by
    rw [BitVec.toNat_append, ← Nat.shiftLeft_add_eq_or_of_lt y.isLt, Nat.shiftLeft_eq]
  simp only [statusWord, append_toNat, BitVec.toNat_ofNat]
  omega

/-- A field of `STATUS`, as a number. -/
theorem statusWord_field_toNat (c : Instance) (start len : Nat) :
    ((statusWord c).extractLsb' start len).toNat =
      ((phaseCode c.phase).toNat + 2 ^ 4 * (statusAlg c).toNat +
        2 ^ 8 * (faultCode c.fault).toNat) / 2 ^ start % 2 ^ len := by
  rw [BitVec.extractLsb'_toNat, statusWord_toNat, Nat.shiftRight_eq_div_pow]

theorem statusWord_phaseField (c : Instance) :
    (statusWord c).extractLsb' 0 2 = phaseCode c.phase := by
  apply BitVec.eq_of_toNat_eq
  rw [statusWord_field_toNat]
  omega

theorem statusWord_zeroField (c : Instance) : (statusWord c).extractLsb' 2 2 = 0#2 := by
  apply BitVec.eq_of_toNat_eq
  rw [statusWord_field_toNat, BitVec.toNat_ofNat]
  omega

theorem statusWord_algField (c : Instance) : (statusWord c).extractLsb' 4 4 = statusAlg c := by
  apply BitVec.eq_of_toNat_eq
  rw [statusWord_field_toNat]
  omega

theorem statusWord_faultField (c : Instance) :
    (statusWord c).extractLsb' 8 4 = faultCode c.fault := by
  apply BitVec.eq_of_toNat_eq
  rw [statusWord_field_toNat]
  omega

theorem statusWord_upperField (c : Instance) : (statusWord c).extractLsb' 12 52 = 0#52 := by
  apply BitVec.eq_of_toNat_eq
  rw [statusWord_field_toNat, BitVec.toNat_ofNat]
  omega

theorem statusAlg_of_none {c : Instance} (h : c.alg = none) : statusAlg c = 0#4 := by
  unfold statusAlg
  rw [h]
  cases c.phase <;> rfl

theorem statusAlg_of_some {c : Instance} {a : Alg} (h : c.alg = some a) (hp : c.phase ≠ .empty) :
    statusAlg c = a.code := by
  unfold statusAlg
  rw [h]
  cases hc : c.phase with
  | empty => exact absurd hc hp
  | active | finished | faulted => rfl

@[simp] theorem statusWord_resetInstance (c : Instance) : statusWord (resetInstance c) = 0#64 := by
  apply BitVec.eq_of_toNat_eq
  rw [statusWord_toNat]
  rfl

/-! ## A host write to the register block of the stepped instance -/

section
variable {s : State} {off width : Nat} {r : HostReg} {v : Word}

/-- A host write into the stepped instance's block that its register takes. -/
theorem hostWrite_next {c : Instance} (h : s.inst.base.toNat + blockBytes ≤ 2 ^ 64)
    (ho : off < blockBytes) (hr : registerAt off width = .ok r)
    (hw : writeRegister r v s.inst = .next c) :
    hostWrite (s.inst.base + BitVec.ofNat 64 off) width v s = .next { s with inst := c } := by
  obtain ⟨hoff, hroute⟩ := routeAccess_block h ho
  have hinst : s.instances[0]? = some s.inst := rfl
  simp only [hostWrite, hroute, hinst, hoff, hr, hw]
  rfl

/-- A host write into the stepped instance's block that its register refuses. -/
theorem hostWrite_refused {x : Refusal} (h : s.inst.base.toNat + blockBytes ≤ 2 ^ 64)
    (ho : off < blockBytes) (hr : registerAt off width = .ok r)
    (hw : writeRegister r v s.inst = .refused x) :
    hostWrite (s.inst.base + BitVec.ofNat 64 off) width v s = .refused x := by
  obtain ⟨hoff, hroute⟩ := routeAccess_block h ho
  have hinst : s.instances[0]? = some s.inst := rfl
  simp only [hostWrite, hroute, hinst, hoff, hr, hw]

end

/-- The first word written to `CMD` after the reset input is the whole stream. -/
theorem hostWrite_cmd_assertReset {s : State} (v : Word)
    (h : s.inst.base.toNat + blockBytes ≤ 2 ^ 64) :
    hostWrite s.inst.base 64 v (assertReset s) =
      .next { assertReset s with inst := { resetInstance s.inst with stream := [v] } } := by
  have haddr : s.inst.base = (assertReset s).inst.base + BitVec.ofNat 64 0 :=
    (BitVec.add_zero s.inst.base).symm
  have hcmd : registerAt 0 64 = .ok .cmd := by decide
  conv_lhs => rw [haddr]
  exact hostWrite_next h (by decide) hcmd rfl

/-! ## The obligations -/

/-- Settles O26: the fault case of `step_outcomes` is the one case of a step that writes the fault
registers, and no case of `hostAct_inst_cases` does. -/
theorem faultRegistersWrittenByFaults : Obligations.FaultRegistersWrittenByFaults := by
  refine ⟨fun s t h => ?step, fun e s t hr hra hs h => ?event, fun c h => if_pos h,
    fun c h => if_neg h, fun c => ⟨rfl, rfl⟩⟩
  case step =>
    obtain rfl | ⟨hp, f, hf, rfl⟩ | ⟨-, i, -, -, rfl⟩ := step_outcomes h
    · exact .inl ⟨rfl, rfl⟩
    · exact .inr ⟨f, hf, hp, rfl, takeFault_fault f s, takeFault_faultCp f s⟩
    · exact .inl ⟨effectOf_fault i s, effectOf_faultCp i s⟩
  case event =>
    obtain hi | ⟨-, v, hi⟩ | hi | ⟨a, hi⟩ | hi := hostAct_inst_cases hr hra hs h <;>
      exact hi ▸ ⟨rfl, rfl⟩

/-- Settles O42, by the frame of a step and by a step under another list of other instances. -/
theorem instancesShareNothing : Obligations.InstancesShareNothing := by
  intro s t o h
  obtain ⟨hothers, hmem⟩ := step_frame h
  exact ⟨hothers, hmem, step_withOthers o h⟩

/-- Settles O49, field by field. -/
theorem statusFields : Obligations.StatusFields := by
  refine ⟨fun c => ⟨?phase, statusWord_zeroField c, ?fnv, ?ahash, ?noAlg, ?fault,
    statusWord_upperField c, statusWord_resetInstance c⟩, fun s v h => ?write⟩
  case phase =>
    rw [statusWord_phaseField]
    cases c.phase <;> rfl
  case fnv => exact fun ha hp => (statusWord_algField c).trans (statusAlg_of_some ha hp)
  case ahash => exact fun ha hp => (statusWord_algField c).trans (statusAlg_of_some ha hp)
  case noAlg => exact fun ha => (statusWord_algField c).trans (statusAlg_of_none ha)
  case fault =>
    rw [statusWord_faultField]
    cases c.fault <;> rfl
  case write =>
    have hstatus : registerAt 0x08 64 = .ok .status := by decide
    exact ⟨.readOnlyRegister, hostWrite_refused h (by decide) hstatus rfl⟩

/-- Settles O25: each register by its value in `Instance.atReset`, and the next word of `CMD` by
`hostWrite_cmd_assertReset`. -/
theorem resetValues : Obligations.ResetValues := fun s =>
  ⟨rfl, rfl, rfl, rfl, rfl, rfl, rfl, rfl, rfl, rfl, rfl, rfl, statusWord_resetInstance s.inst,
    fun v h => ⟨_, hostWrite_cmd_assertReset v h, rfl⟩⟩

end Sys2Proof.Machine
end

section
/-! SUPPORT. The proofs about 20_memory.md: the bytes of a multi-byte read, and that data memory outlives
every command. -/

namespace Sys2Proof.Machine

/-! ## The bytes of a multi-byte read (R43) -/

theorem memReadNat_eq_sum (m : Memory) (a n : Nat) :
    memReadNat m a n =
      ((List.range n).map fun k => 2 ^ (8 * k) * (memByte m (a + k)).toNat).sum := by
  induction n with
  | zero => rfl
  | succ n ih => simp [memReadNat, ih, List.range_succ]

/-- Byte `k` of the sum: the bytes below it add up to less than `2^(8k)`, and every byte above it adds a
multiple of `2^(8(k+1))`. -/
theorem memReadNat_byte (m : Memory) (a : Nat) {k n : Nat} (hk : k < n) :
    memReadNat m a n / 2 ^ (8 * k) % 2 ^ 8 = (memByte m (a + k)).toNat := by
  induction n with
  | zero => omega
  | succ n ih =>
    rw [memReadNat]
    obtain hlt | rfl : k < n ∨ k = n := by omega
    · have hpow : 2 ^ (8 * n) = 2 ^ (8 * k) * (2 ^ 8 * 2 ^ (8 * (n - k - 1))) := by
        rw [← pow_add, ← pow_add]
        congr 1
        omega
      rw [hpow, mul_assoc, mul_assoc, Nat.add_mul_div_left _ _ (by positivity),
        Nat.add_mul_mod_self_left, ih hlt]
    · rw [Nat.add_mul_div_left _ _ (by positivity), Nat.div_eq_of_lt (memReadNat_lt m a k),
        zero_add, Nat.mod_eq_of_lt (memByte m (a + k)).isLt]

/-- A read of at most eight bytes fits a word. -/
theorem memRead_toNat (m : Memory) (a : Nat) {n : Nat} (hn : n ≤ 8) :
    (memRead m a n).toNat = memReadNat m a n := by
  have hfit : memReadNat m a n < 2 ^ 64 :=
    (memReadNat_lt m a n).trans_le (Nat.pow_le_pow_right (by omega) (by omega))
  rw [memRead, BitVec.toNat_ofNat, Nat.mod_eq_of_lt hfit]

theorem memRead_byte (m : Memory) (a : Nat) {k n : Nat} (hk : k < n) (hn : n ≤ 8) :
    (memRead m a n).extractLsb' (8 * k) 8 = memByte m (a + k) := by
  apply BitVec.eq_of_toNat_eq
  rw [BitVec.extractLsb'_toNat, memRead_toNat m a hn, Nat.shiftRight_eq_div_pow,
    memReadNat_byte m a hk]

/-! ## Data memory under a command (R56) -/

theorem exec_mem {i : Instr} {s t : State} (h : exec i s = .next t) : t.mem = s.mem := by
  obtain ⟨-, rfl⟩ | ⟨-, f, -, rfl⟩ | ⟨-, -, rfl⟩ := exec_cases h
  · rfl
  · exact takeFault_mem f s
  · exact effectOf_mem i s

/-! ## The obligations -/

/-- Settles O7: a read of 1, 2, 4 or 8 bytes is the sum of R43 with nothing cut off, so that the sum's
bytes and bound are its own. -/
theorem memReadLittleEndian : Obligations.MemReadLittleEndian := by
  intro m a n hmem
  have hn : n ≤ 8 := by
    simp only [List.mem_cons, List.not_mem_nil, or_false] at hmem
    omega
  have hval := memRead_toNat m a hn
  exact ⟨hval.trans (memReadNat_eq_sum m a n), fun k hk => memRead_byte m a hk hn,
    hval.trans_lt (memReadNat_lt m a n)⟩

/-- Settles O40: a command and a step keep the whole data memory, so every address of it. -/
theorem noCommandWritesDataMemory : Obligations.NoCommandWritesDataMemory := by
  refine ⟨fun i s t h a => ?command, fun s t h a => ?step⟩
  case command => rw [exec_mem h]
  case step =>
    obtain ⟨-, hmem⟩ := step_frame h
    rw [hmem]

end Sys2Proof.Machine
end

section
/-! SUPPORT. The proofs about 30_encoding.md: the one header word of each legal header, the match and mask
of the opcode table, and what a payload takes from the words after its header. -/

namespace Sys2Proof

/-! ## Reserved and legal codes (R65 to R67) -/

theorem Op.ofCode_reserved {c : BitVec 4} (h : c.toNat = 0 ∨ 5 ≤ c.toNat) : Op.ofCode c = none := by
  revert c; decide

theorem EType.code_le (t : EType) : t.code.toNat ≤ 11 := by cases t <;> decide

theorem EType.exists_code {c : BitVec 4} (h : c.toNat ≤ 11) : ∃ t : EType, t.code = c := by
  have hsome : (EType.ofCode c).isSome := by revert c; decide
  obtain ⟨t, ht⟩ := Option.isSome_iff_exists.mp hsome
  exact ⟨t, EType.code_of_ofCode ht⟩

theorem eq_ofNat_nlog_iff {c : BitVec 3} {n : Fin 7} : c = BitVec.ofNat 3 n.val ↔ c.toNat = n.val := by
  revert c n; decide

/-! ## The header word of a legal header (R61) -/

/-- The code in the `ETYPE` field of a legal header: 0 for every command but a chunk. -/
def Header.etypeCode : Header → BitVec 4
  | .absorbChunk _ t _ => t.code
  | _ => 0#4

/-- The code in the `NLOG` field of a legal header: 0 for every command but a chunk. -/
def Header.nlogCode : Header → BitVec 3
  | .absorbChunk _ _ nlog => BitVec.ofNat 3 nlog.val
  | _ => 0#3

/-- The word of a legal header; `decodeHeader_eq_ok_iff` says that it is the only one. -/
def Header.word (h : Header) : Word := headerWord h.op.code h.alg.code h.etypeCode h.nlogCode

theorem plainHeader_eq_ok_iff {w : Word} {h h' : Header} :
    plainHeader w h = .ok h' ↔ h = h' ∧ etypeField w = 0#4 ∧ nlogField w = 0#3 := by
  unfold plainHeader
  split_ifs with hc <;> simp [hc]

theorem chunkHeader_eq_ok_iff {w : Word} {a : Alg} {h : Header} :
    chunkHeader w a = .ok h ↔ ∃ t n, EType.ofCode (etypeField w) = some t ∧
      nlogOfCode (nlogField w) = some n ∧ Header.absorbChunk a t n = h := by
  unfold chunkHeader
  cases EType.ofCode (etypeField w) <;> cases nlogOfCode (nlogField w) <;> simp

/-- The fields of a word that decodes to a legal header are that header's codes. -/
theorem decodeHeader_fields {w : Word} {h : Header} (hw : decodeHeader w = .ok h) :
    opField w = h.op.code ∧ algField w = h.alg.code ∧ etypeField w = h.etypeCode ∧
      nlogField w = h.nlogCode ∧ reservedField w = 0#49 := by
  unfold decodeHeader at hw
  split at hw
  · cases hw
  rename_i op hop
  split at hw
  · cases hw
  rename_i a ha
  split_ifs at hw with hres
  rw [not_not] at hres
  rw [← Op.code_of_ofCode hop, ← Alg.code_of_ofCode ha]
  cases op with
  | init | absorbBytes | finish =>
    obtain ⟨rfl, ht, hn⟩ := plainHeader_eq_ok_iff.mp hw
    exact ⟨rfl, rfl, ht, hn, hres⟩
  | absorbChunk =>
    obtain ⟨t, n, ht, hn, rfl⟩ := chunkHeader_eq_ok_iff.mp hw
    exact ⟨rfl, rfl, (EType.code_of_ofCode ht).symm, (nlogOfCode_val hn).symm, hres⟩

theorem decodeHeader_word (h : Header) : decodeHeader h.word = .ok h := by
  cases h <;>
    simp [decodeHeader, Header.word, Header.op, Header.alg, Header.etypeCode, Header.nlogCode,
      plainHeader, chunkHeader]

/-- A legal header is read from its one word and from no other. -/
theorem decodeHeader_eq_ok_iff {w : Word} {h : Header} : decodeHeader w = .ok h ↔ w = h.word := by
  refine ⟨fun hw => ?_, fun hw => hw ▸ decodeHeader_word h⟩
  obtain ⟨hop, halg, ht, hn, hres⟩ := decodeHeader_fields hw
  rw [Header.word, ← hop, ← halg, ← ht, ← hn, headerWord_fields hres]

/-! ## The match and the mask of the chunk rows (R72) -/

/-- The chunk mask keeps OP, ALG and the reserved bits and clears ETYPE and NLOG. -/
theorem and_chunkMask_eq_iff {w : Word} {o a : BitVec 4} :
    w &&& 0xFFFFFFFFFFFF80FF#64 = headerWord o a 0#4 0#3 ↔
      opField w = o ∧ algField w = a ∧ reservedField w = 0#49 := by
  have hop : opField (w &&& 0xFFFFFFFFFFFF80FF#64) = opField w :=
    BitVec.extractLsb'_and.trans BitVec.and_allOnes
  have halg : algField (w &&& 0xFFFFFFFFFFFF80FF#64) = algField w :=
    BitVec.extractLsb'_and.trans BitVec.and_allOnes
  have het : etypeField (w &&& 0xFFFFFFFFFFFF80FF#64) = 0#4 :=
    BitVec.extractLsb'_and.trans BitVec.and_zero
  have hnl : nlogField (w &&& 0xFFFFFFFFFFFF80FF#64) = 0#3 :=
    BitVec.extractLsb'_and.trans BitVec.and_zero
  have hres : reservedField (w &&& 0xFFFFFFFFFFFF80FF#64) = reservedField w :=
    BitVec.extractLsb'_and.trans BitVec.and_allOnes
  constructor
  · intro h
    rw [← hop, ← halg, ← hres, h]
    simp
  · rintro ⟨rfl, rfl, hzero⟩
    rw [← headerWord_fields (hres.trans hzero), hop, halg, het, hnl]

/-- A word is a chunk header exactly when it matches the chunk row of its algorithm under the mask and
carries the chunk's ETYPE and NLOG. -/
theorem decodeHeader_eq_chunk_iff {w : Word} {a : Alg} {t : EType} {n : Fin 7} :
    decodeHeader w = .ok (.absorbChunk a t n) ↔
      w &&& 0xFFFFFFFFFFFF80FF#64 = headerWord Op.absorbChunk.code a.code 0#4 0#3 ∧
        etypeField w = t.code ∧ (nlogField w).toNat = n.val := by
  rw [and_chunkMask_eq_iff, ← eq_ofNat_nlog_iff]
  constructor
  · intro h
    obtain ⟨hop, halg, ht, hn, hres⟩ := decodeHeader_fields h
    exact ⟨⟨hop, halg, hres⟩, ht, hn⟩
  · rintro ⟨⟨hop, halg, hres⟩, ht, hn⟩
    rw [decodeHeader_eq_ok_iff, ← headerWord_fields hres, hop, halg, ht, hn]
    rfl

/-- A word is some chunk header of an algorithm exactly when it matches the chunk row under the mask and
its ETYPE and NLOG are none of the reserved values. -/
theorem exists_decodeHeader_eq_chunk_iff {w : Word} {a : Alg} :
    (∃ t n, decodeHeader w = .ok (.absorbChunk a t n)) ↔
      w &&& 0xFFFFFFFFFFFF80FF#64 = headerWord Op.absorbChunk.code a.code 0#4 0#3 ∧
        (etypeField w).toNat ≤ 11 ∧ (nlogField w).toNat ≤ 6 := by
  simp only [decodeHeader_eq_chunk_iff]
  constructor
  · rintro ⟨t, n, hm, ht, hn⟩
    exact ⟨hm, ht ▸ t.code_le, by omega⟩
  · rintro ⟨hm, ht, hn⟩
    obtain ⟨t, ht⟩ := EType.exists_code ht
    exact ⟨t, ⟨(nlogField w).toNat, by omega⟩, hm, ht.symm, rfl⟩

/-- The legal header words: the six words of the plain headers, and those of the two chunk rows. -/
theorem exists_decodeHeader_eq_ok_iff {w : Word} :
    (∃ h, decodeHeader w = .ok h) ↔
      w = (Header.init .fnv1a).word ∨ w = (Header.absorbBytes .fnv1a).word ∨
      w = (Header.finish .fnv1a).word ∨ w = (Header.init .ahash).word ∨
      w = (Header.absorbBytes .ahash).word ∨ w = (Header.finish .ahash).word ∨
      (∃ t n, decodeHeader w = .ok (.absorbChunk .fnv1a t n)) ∨
      (∃ t n, decodeHeader w = .ok (.absorbChunk .ahash t n)) := by
  simp only [← decodeHeader_eq_ok_iff]
  constructor
  · rintro ⟨h, hw⟩
    cases h with
    | init a | absorbBytes a | finish a => cases a <;> simp [hw]
    | absorbChunk a t n => cases a <;> simp [hw]
  · rintro (h | h | h | h | h | h | ⟨t, n, h⟩ | ⟨t, n, h⟩) <;> exact ⟨_, h⟩

/-! ## The words a command takes (R63) -/

theorem decode_cons_eq_ok {w : Word} {ws rest : List Word} {i : Instr}
    (h : decode (w :: ws) = .ok (i, rest)) :
    ∃ hd, decodeHeader w = .ok hd ∧ decodePayload hd ws = .ok (i, rest) := by
  cases hw : decodeHeader w with
  | ok hd => exact ⟨hd, rfl, by simpa only [decode, hw] using h⟩
  | error e => simp [decode, hw] at h

/-- A payload takes as many words as its header says, from the front, and leaves the others. -/
theorem decodePayload_length {hd : Header} {ws rest : List Word} {i : Instr}
    (h : decodePayload hd ws = .ok (i, rest)) :
    i.words = 1 + hd.payloadWords ∧ hd.payloadWords ≤ ws.length ∧
      rest = ws.drop hd.payloadWords := by
  unfold decodePayload at h
  split at h
  case h_1 a s0 s1 s2 s3 tail =>
    cases h
    exact ⟨by cases a <;> rfl, by simp [Header.payloadWords], rfl⟩
  case h_3 a ptr len tail =>
    cases h
    exact ⟨by cases a <;> rfl, by simp [Header.payloadWords], rfl⟩
  case h_5 a t n =>
    split_ifs at h with hlen hfit
    cases h
    exact ⟨by cases a <;> rfl, not_lt.mp hlen, rfl⟩
  case h_6 a =>
    cases h
    exact ⟨by cases a <;> rfl, Nat.zero_le _, rfl⟩
  all_goals cases h

/-- The length of a command as a function of the OP and NLOG fields of its header. -/
theorem payloadWords_of_fields {w : Word} {hd : Header} (h : decodeHeader w = .ok hd) :
    ((opField w).toNat = 1 → hd.payloadWords = 4) ∧
    ((opField w).toNat = 2 → hd.payloadWords = 2) ∧
    ((opField w).toNat = 3 →
      hd.payloadWords = 2 ^ (nlogField w).toNat ∧ (nlogField w).toNat ≤ 6) ∧
    ((opField w).toNat = 4 → hd.payloadWords = 0) := by
  obtain ⟨hop, -, -, hn, -⟩ := decodeHeader_fields h
  rw [hop]
  cases hd with
  | init | absorbBytes | finish => simp [Header.op, Op.code, Header.payloadWords]
  | absorbChunk a t n =>
    have hval : (nlogField w).toNat = n.val := eq_ofNat_nlog_iff.mp hn
    have hle : n.val ≤ 6 := by omega
    simp [Header.op, Op.code, Header.payloadWords, hval, hle]

theorem decodeHeader_reservedOp {w : Word} (h : (opField w).toNat = 0 ∨ 5 ≤ (opField w).toNat) :
    decodeHeader w = .error .illegalOp := by
  simp [decodeHeader, Op.ofCode_reserved h]

end Sys2Proof

namespace Sys2Proof.Machine

/-- Checks 1 and 2 of 60_exceptions.md R126: a step on an illegal header word takes its fault, whatever
stands after that word. -/
theorem step_header_error {s : State} {w : Word} {ws : List Word} {e : DecodeError}
    (hp : s.inst.phase ≠ .faulted) (hw : pendingWords s.inst = w :: ws)
    (he : decodeHeader w = .error e) : step s = .next (takeFault (faultOfError e) s) := by
  simp [step, fetch, hp, hw, he]

/-! ## The obligations -/

/-- Settles O3: a plain header is read from its one word alone, and a chunk header from the words of its
row; the legal words are those of the eight rows. -/
theorem headerWordsSelectCommands : Obligations.HeaderWordsSelectCommands := by
  intro w
  refine ⟨decodeHeader_eq_ok_iff, decodeHeader_eq_ok_iff, decodeHeader_eq_ok_iff,
    decodeHeader_eq_ok_iff, decodeHeader_eq_ok_iff, decodeHeader_eq_ok_iff,
    fun t n => decodeHeader_eq_chunk_iff, fun t n => decodeHeader_eq_chunk_iff, ?legal⟩
  case legal =>
    rw [exists_decodeHeader_eq_ok_iff, exists_decodeHeader_eq_chunk_iff,
      exists_decodeHeader_eq_chunk_iff, ← or_and_right]
    rfl

/-- Settles O5: the header fixes the payload's words, the payload takes just these, and a reserved OP is
found before any payload is looked at. -/
theorem commandLengthFromHeader : Obligations.CommandLengthFromHeader := by
  refine ⟨fun w ws i rest h => ?length, fun w ws hop => ⟨?decodes, fun s hp hw => ?steps⟩⟩
  case length =>
    obtain ⟨hd, hhd, hpay⟩ := decode_cons_eq_ok h
    obtain ⟨hwords, hle, hrest⟩ := decodePayload_length hpay
    obtain ⟨hinit, hbytes, hchunk, hfinish⟩ := payloadWords_of_fields hhd
    have hdrop : i.words - 1 = hd.payloadWords := by omega
    rw [hdrop, hwords]
    refine ⟨⟨hd, hhd, rfl⟩, ?_, hrest, fun h1 => by rw [hinit h1], fun h2 => by rw [hbytes h2],
      fun h3 => ?_, fun h4 => by rw [hfinish h4]⟩
    · rw [hrest, List.length_drop]
      omega
    · obtain ⟨hpow, hnlog⟩ := hchunk h3
      have hlow : 1 ≤ 2 ^ (nlogField w).toNat := Nat.one_le_two_pow
      have hhigh : 2 ^ (nlogField w).toNat ≤ 2 ^ 6 := Nat.pow_le_pow_right (by decide) hnlog
      omega
  case decodes => simp [decode, decodeHeader_reservedOp hop]
  case steps => exact step_header_error hp hw (decodeHeader_reservedOp hop)

end Sys2Proof.Machine
end

section
/-! SUPPORT. The proofs about 40_primitives.md: the bytes of `BSWAP64`, the corner cases of
`FOLDED_MULTIPLY`, the bounds and the reach of `READ_SMALL`, and the bits of an element widened. -/

namespace Sys2Proof

/-! ## Element types (R66) -/

theorem EType.width_pos (t : EType) : 0 < t.width := by cases t <;> decide

theorem EType.isSigned_iff (t : EType) :
    t.isSigned = true ↔ t ∈ [EType.i8, .i16, .i32, .i64] := by
  cases t <;> decide

end Sys2Proof

namespace Sys2Proof.Machine

/-! ## BSWAP64 (R80) -/

section
variable {v : Nat} (hi : BitVec v) (lo : Byte)

/-- The byte appended last is byte 0. -/
theorem extractLsb'_append_byte_zero : (hi ++ lo).extractLsb' 0 8 = lo := by
  rw [BitVec.extractLsb'_append_eq_of_add_le (by decide), BitVec.extractLsb'_eq_self]

/-- Byte `k + 1` is byte `k` of what stands before the byte appended last. -/
theorem extractLsb'_append_byte_succ (k : Nat) :
    (hi ++ lo).extractLsb' (8 * (k + 1)) 8 = hi.extractLsb' (8 * k) 8 := by
  rw [BitVec.extractLsb'_append_eq_of_le (by omega), Nat.mul_succ, Nat.add_sub_cancel]

end

theorem byteOf_bswap64 (x : Word) {k : Nat} (hk : k < 8) :
    byteOf (bswap64 x) k = byteOf x (7 - k) := by
  rw [byteOf, bswap64]
  interval_cases k <;>
    simp only [extractLsb'_append_byte_succ, extractLsb'_append_byte_zero, Nat.mul_zero,
      BitVec.extractLsb'_eq_self]

/-- A word is its eight bytes. -/
theorem eq_of_byteOf_eq {x y : Word} (h : ∀ k < 8, byteOf x k = byteOf y k) : x = y := by
  apply BitVec.eq_of_getLsbD_eq
  intro i hi
  have hbit := congrArg (fun b => b.getLsbD (i % 8)) (h (i / 8) (by omega))
  simpa [byteOf, Nat.mod_lt, Nat.div_add_mod] using hbit

@[simp] theorem bswap64_bswap64 (x : Word) : bswap64 (bswap64 x) = x := by
  apply eq_of_byteOf_eq
  intro k hk
  rw [byteOf_bswap64 _ hk, byteOf_bswap64 _ (by omega), show 7 - (7 - k) = k by omega]

@[simp] theorem bswap64_zero : bswap64 0#64 = 0#64 := by decide

/-! ## ROTL64 (R81) -/

/-- A left rotate brings bit `i - r` modulo 64 to place `i`. -/
theorem rotl64_getLsbD (x : Word) (r : Nat) {i : Nat} (hi : i < 64) :
    (rotl64 x r).getLsbD i = x.getLsbD ((i + (64 - r % 64)) % 64) := by
  rw [rotl64_eq_rotateLeft, BitVec.getLsbD_rotateLeft]
  by_cases hwrap : i < r % 64
  · rw [decide_eq_true hwrap, cond_true]
    congr 1
    omega
  · rw [decide_eq_false hwrap, cond_false, decide_eq_true hi, Bool.true_and]
    congr 1
    omega

theorem rotl64_of_mod_eq_zero (x : Word) {r : Nat} (hr : r % 64 = 0) : rotl64 x r = x := by
  simp [rotl64, hr]

theorem rotl64_of_mod_ne_zero (x : Word) {r : Nat} (hr : r % 64 ≠ 0) :
    rotl64 x r = (x <<< (r % 64)) ||| (x >>> (64 - r % 64)) := by
  simp [rotl64, hr]

/-! ## FOLDED_MULTIPLY (R82) -/

/-- The formula of R82 on words. -/
theorem foldedMultiply_eq (a b : Word) :
    foldedMultiply a b = (a * bswap64 b) ^^^ bswap64 (bswap64 a * ~~~b) := by
  rw [foldedMultiply, BitVec.mul_comm (bswap64 b), BitVec.mul_comm (~~~b)]

@[simp] theorem foldedMultiply_zero_left (b : Word) : foldedMultiply 0#64 b = 0#64 := by
  simp [foldedMultiply_eq]

/-- With `b = 0` the low product vanishes and the high one is multiplied by `-1`. -/
theorem foldedMultiply_zero_right (a : Word) : foldedMultiply a 0#64 = bswap64 (-bswap64 a) := by
  have hneg : bswap64 a * ~~~0#64 = -bswap64 a := by
    rw [BitVec.neg_eq_neg_one_mul, BitVec.mul_comm]
    rfl
  rw [foldedMultiply_eq, hneg]
  simp

/-- The formula of R82 over naturals. -/
theorem foldedMultiply_toNat (a b : Word) : (foldedMultiply a b).toNat =
    (a.toNat * (bswap64 b).toNat % 2 ^ 64) ^^^
      (bswap64 (BitVec.ofNat 64 ((bswap64 a).toNat * (2 ^ 64 - 1 - b.toNat) % 2 ^ 64))).toNat := by
  have hhi : BitVec.ofNat 64 ((bswap64 a).toNat * (2 ^ 64 - 1 - b.toNat) % 2 ^ 64) =
      bswap64 a * ~~~b := by
    rw [← BitVec.toNat_not, ← BitVec.toNat_mul, BitVec.ofNat_toNat, BitVec.setWidth_eq]
  rw [foldedMultiply_eq, BitVec.toNat_xor, BitVec.toNat_mul, hhi]

/-! ## READ_SMALL (R83) -/

section
variable (m : Memory) (p : Nat) {n : Nat}

theorem readSmall_of_four_le (hn : 4 ≤ n) :
    readSmall m p n = ⟨memRead m p 4, memRead m (p + n - 4) 4⟩ := if_pos hn

theorem readSmall_of_two_le (h2 : 2 ≤ n) (h4 : n < 4) :
    readSmall m p n = ⟨memRead m p 2, memByte64 m (p + n - 1)⟩ := by
  rw [readSmall, if_neg (not_le.mpr h4), if_pos h2]

theorem readSmall_one : readSmall m p 1 = ⟨memByte64 m p, memByte64 m p⟩ := rfl

theorem readSmall_zero : readSmall m p 0 = ⟨0#64, 0#64⟩ := rfl

end

/-- A read of at most four bytes leaves the upper half of the word 0. -/
theorem memRead_lt (m : Memory) (a : Nat) {n : Nat} (hn : n ≤ 4) :
    (memRead m a n).toNat < 2 ^ 32 := by
  rw [memRead_toNat m a (by omega)]
  exact (memReadNat_lt m a n).trans_le (Nat.pow_le_pow_right (by decide) (by omega))

theorem memByte64_lt (m : Memory) (a : Nat) : (memByte64 m a).toNat < 2 ^ 32 := by
  have hbyte := (memByte m a).isLt
  rw [memByte64, BitVec.toNat_setWidth_of_le (by decide)]
  omega

/-- Both elements of `READ_SMALL` have bits [63:32] zero, branch by branch. -/
theorem readSmall_lt (m : Memory) (p n : Nat) :
    (readSmall m p n).x.toNat < 2 ^ 32 ∧ (readSmall m p n).y.toNat < 2 ^ 32 := by
  obtain h4 | ⟨h2, h4⟩ | rfl | rfl : 4 ≤ n ∨ (2 ≤ n ∧ n < 4) ∨ n = 1 ∨ n = 0 := by omega
  · rw [readSmall_of_four_le m p h4]
    exact ⟨memRead_lt m p le_rfl, memRead_lt m _ le_rfl⟩
  · rw [readSmall_of_two_le m p h2 h4]
    exact ⟨memRead_lt m p (by decide), memByte64_lt m _⟩
  · exact ⟨memByte64_lt m p, memByte64_lt m p⟩
  · rw [readSmall_zero]
    decide

/-- `READ_SMALL` looks at the bytes of its span only, branch by branch. -/
theorem readSmall_congr {m m' : Memory} {p n : Nat}
    (h : ∀ k < n, memByte m' (p + k) = memByte m (p + k)) :
    readSmall m' p n = readSmall m p n := by
  have hread {d w : Nat} (hw : d + w ≤ n) : memRead m' (p + d) w = memRead m (p + d) w :=
    memRead_congr fun k hk => by rw [Nat.add_assoc, h (d + k) (by omega)]
  have hfirst {w : Nat} (hw : w ≤ n) : memRead m' p w = memRead m p w :=
    memRead_congr fun k hk => h k (by omega)
  have hbyte {d : Nat} (hd : d < n) : memByte64 m' (p + d) = memByte64 m (p + d) := by
    rw [memByte64, memByte64, h d hd]
  obtain h4 | ⟨h2, h4⟩ | rfl | rfl : 4 ≤ n ∨ (2 ≤ n ∧ n < 4) ∨ n = 1 ∨ n = 0 := by omega
  · rw [readSmall_of_four_le m' p h4, readSmall_of_four_le m p h4, Nat.add_sub_assoc h4,
      hread (by omega), hfirst h4]
  · rw [readSmall_of_two_le m' p h2 h4, readSmall_of_two_le m p h2 h4,
      Nat.add_sub_assoc (by omega), hbyte (by omega), hfirst h2]
  · have hone : memByte64 m' p = memByte64 m p := hbyte (d := 0) (by decide)
    rw [readSmall_one, readSmall_one, hone]
  · rfl

/-! ## READ_PAIR8 (R86) -/

/-- For `n` from 8 on, element 1 starts `n - 8` bytes into the span. -/
theorem readPair8_eq (m : Memory) (p : Nat) {n : Nat} (hn : 8 ≤ n) :
    readPair8 m p n = ⟨memRead m p 8, memRead m (p + (n - 8)) 8⟩ := by
  rw [readPair8, Nat.add_sub_assoc hn]

/-! ## LARGE_UPDATE (R85) -/

theorem largeUpdate_eq (x y : Word) (h : AHashRegs) :
    largeUpdate ⟨x, y⟩ h =
      { h with
        buffer := (((h.buffer + h.pad) ^^^
          foldedMultiply (x ^^^ h.ek0) (y ^^^ h.ek1)).rotateLeft 23) } := by
  simp only [largeUpdate, laneXor, rotl64_eq_rotateLeft, Config.rot]

/-- A lane whose element 0 is `EK0` folds to 0, whatever its element 1 is. -/
theorem largeUpdate_ek0_buffer (y : Word) (h : AHashRegs) :
    (largeUpdate ⟨h.ek0, y⟩ h).buffer = (h.buffer + h.pad).rotateLeft 23 := by
  rw [largeUpdate_eq, BitVec.xor_self, foldedMultiply_zero_left, BitVec.xor_zero]

/-! ## EXT64 (R87) -/

section
variable (e : Word) {w i : Nat}

theorem zext64_getLsbD (hi : i < 64) :
    (zext64 e w).getLsbD i = (decide (i < w) && e.getLsbD i) := by
  rw [zext64, BitVec.getLsbD_setWidth, BitVec.getLsbD_setWidth, decide_eq_true hi, Bool.true_and]

/-- Above the element the sign extension repeats its top bit. -/
theorem sext64_getLsbD (hw : 0 < w) (hi : i < 64) :
    (sext64 e w).getLsbD i = if i < w then e.getLsbD i else e.getLsbD (w - 1) := by
  rw [sext64, BitVec.getLsbD_signExtend, BitVec.msb_setWidth, BitVec.getLsbD_setWidth,
    decide_eq_true hi, decide_eq_true hw, Bool.true_and, Bool.true_and]
  split_ifs with h
  · rw [decide_eq_true h, Bool.true_and]
  · rfl

end

/-- `EXT64` extends with the sign for the signed kinds under SIGN, and with zeros otherwise. -/
theorem ext64_eq (mode : Config.SignedExt) (t : EType) (e : Word) :
    ext64 mode t e =
      if t.isSigned && decide (mode = .sign) then sext64 e t.width else zext64 e t.width := by
  unfold ext64
  cases t.isSigned <;> cases mode <;> rfl

theorem ext64_getLsbD (mode : Config.SignedExt) (t : EType) (e : Word) {i : Nat} (hi : i < 64) :
    (ext64 mode t e).getLsbD i =
      if i < t.width then e.getLsbD i
      else (t.isSigned && decide (mode = .sign) && e.getLsbD (t.width - 1)) := by
  rw [ext64_eq]
  cases t.isSigned && decide (mode = .sign) with
  | true => simp [sext64_getLsbD e t.width_pos hi]
  | false => by_cases h : i < t.width <;> simp [zext64_getLsbD e hi, h]

/-- An element of 64 bits is its own extension: every bit stands below the width. -/
theorem ext64_of_width_eq (mode : Config.SignedExt) {t : EType} (e : Word) (hw : t.width = 64) :
    ext64 mode t e = e := by
  apply BitVec.eq_of_getLsbD_eq
  intro i hi
  rw [ext64_getLsbD mode t e hi, if_pos (hw ▸ hi)]

/-! ## The obligations -/

/-- Settles O8, from the layout of `BSWAP64` byte by byte. -/
theorem byteSwapReversesBytes : Obligations.ByteSwapReversesBytes :=
  ⟨fun x _ hk => byteOf_bswap64 x hk, bswap64_bswap64, bswap64_zero, by decide⟩

/-- Settles O9, from the bits of the rotate and its two branches. -/
theorem rotateLeftMovesBits : Obligations.RotateLeftMovesBits :=
  ⟨fun x r _ hi => rotl64_getLsbD x r hi, fun x _ hr => rotl64_of_mod_eq_zero x hr,
    fun x _ hr => rotl64_of_mod_ne_zero x hr, by decide, by decide⟩

/-- Settles O10; the values at `(1, 0)` and `(0, 1)` show that it is not symmetric. -/
theorem foldedMultiplyFormula : Obligations.FoldedMultiplyFormula := by
  refine ⟨foldedMultiply_toNat, foldedMultiply_zero_left, fun a => ?zeroRight, by decide, by decide,
    by decide, 1#64, 0#64, by decide⟩
  case zeroRight =>
    rw [foldedMultiply_zero_right, ← BitVec.toNat_neg, BitVec.ofNat_toNat, BitVec.setWidth_eq]

/-- Settles O11, from the equation of each branch, and the bound and the reach of the reads in it. -/
theorem readSmallPacksSpan : Obligations.ReadSmallPacksSpan := by
  intro m p n _
  obtain ⟨hx, hy⟩ := readSmall_lt m p n
  exact ⟨readSmall_of_four_le m p, readSmall_of_two_le m p, fun h1 => h1 ▸ readSmall_one m p,
    fun h0 => h0 ▸ readSmall_zero m p, hx, hy, fun _ h => readSmall_congr h⟩

/-- Settles O12: each element is a read of eight bytes, whose byte `k` is `k` bytes on. -/
theorem laneReadsPlaceBytes : Obligations.LaneReadsPlaceBytes := by
  refine ⟨fun m q k hk => ?lane16, fun m p n k h9 _ hk => ?pair8⟩
  case lane16 => exact ⟨memRead_byte m q hk le_rfl, memRead_byte m (q + 8) hk le_rfl⟩
  case pair8 =>
    rw [readPair8_eq m p (by omega)]
    exact ⟨memRead_byte m p hk le_rfl, memRead_byte m (p + (n - 8)) hk le_rfl⟩

/-- Settles O13, from the formula and from `FOLDED_MULTIPLY(0, b) = 0`. -/
theorem largeUpdateFormula : Obligations.LargeUpdateFormula :=
  ⟨largeUpdate_eq, largeUpdate_ek0_buffer, by decide⟩

/-- Settles O14, from the bits of the two extensions and the table of the element types. -/
theorem elementWideningBits : Obligations.ElementWideningBits :=
  ⟨fun mode t e _ hi => ext64_getLsbD mode t e hi, fun mode _ e hw => ext64_of_width_eq mode e hw,
    EType.isSigned_iff, by decide, EType.ofCode_code, by decide, by decide⟩

end Sys2Proof.Machine
end

section
/-! SUPPORT. The proof about 42_fnv1a.md: what FNV.ABSORB_BYTES does to a live, unspoiled FNV-1a hasher,
and that a sequence of such commands folds the concatenated bytes of their spans. -/

namespace Sys2Proof.Machine

/-! ## The bytes of a span (R111) -/

/-- The bytes of a span, in increasing address order. -/
def spanBytes (m : Memory) (ptr len : Word) : List Byte :=
  (List.range len.toNat).map fun k => memByte m (ptr.toNat + k)

/-- The FNV-1a step on one byte of a span. -/
def fnvByteStep (v : Word) (b : Byte) : Word := fnvStep v (b.setWidth 64)

theorem fnvBytes_eq_foldl_spanBytes (m : Memory) (ptr len v : Word) :
    fnvBytes m ptr.toNat len.toNat v = (spanBytes m ptr len).foldl fnvByteStep v := by
  rw [fnvBytes_eq_foldl, spanBytes, List.foldl_map]
  rfl

/-! ## A live FNV-1a hasher -/

/-- The stepped instance is a live FNV-1a hasher holding `v`, and no pending span of it is spoiled. -/
structure FnvHolds (s : State) (v : Word) : Prop where
  phase : s.inst.phase = .active
  alg : s.inst.alg = some .fnv1a
  value : s.inst.value = some v
  spoiled : s.inst.spoiled = []

theorem FnvHolds.spanSpoiled_eq_false {s : State} {v : Word} (h : FnvHolds s v) :
    spanSpoiled s.inst = false := by
  simp [spanSpoiled, h.spoiled]

theorem FnvHolds.fnvReg_eq {s : State} {v : Word} (h : FnvHolds s v) : fnvReg s.inst = v := by
  simp [fnvReg, readReg, h.value]

/-! ## FNV.ABSORB_BYTES of an admitted span -/

/-- With its phase, its algorithm and its span as they should be, no check stops the command. -/
theorem exec_absorbBytesFnv_eq_effect {s : State} {ptr len : Word} (hp : s.inst.phase = .active)
    (ha : s.inst.alg = some .fnv1a) (hspan : admitted s.mem ptr len = true) :
    exec (.absorbBytesFnv ptr len) s = .next (absorbBytesFnvEffect ptr len s) := by
  have hbounds : boundsCheck s.mem (.absorbBytesFnv ptr len) = none := by
    simp [boundsCheck, spanOf, hspan]
  have hchecks : failingCheck (.absorbBytesFnv ptr len) s = none :=
    failingCheck_none.2 ⟨rfl, rfl, by rw [hp]; rfl, .inr ha, hbounds⟩
  rw [exec_eq_attempt, attempt_effect (by simp [hp]) hchecks, effectOf]

/-- The hasher then holds the fold over the span's bytes, and is live and unspoiled as before. -/
theorem FnvHolds.absorb {s : State} {v : Word} (h : FnvHolds s v) (ptr len : Word) :
    FnvHolds (absorbBytesFnvEffect ptr len s) ((spanBytes s.mem ptr len).foldl fnvByteStep v) where
  phase := by simp [h.phase]
  alg := by simp [h.alg]
  value := by
    rw [absorbBytesFnvEffect_value, absorbed_of_not_spoiled h.spanSpoiled_eq_false, h.fnvReg_eq,
      fnvBytes_eq_foldl_spanBytes]
  spoiled := by
    rw [absorbBytesFnvEffect_spoiled, settleSpan_of_not_spoiled h.spanSpoiled_eq_false, h.spoiled]

/-! ## A sequence of commands -/

theorem execAll_cons_of_next {i : Instr} {is : List Instr} {s t : State} (h : exec i s = .next t) :
    execAll (i :: is) s = execAll is t := by
  rw [execAll, h]

/-- By induction on the spans: the first command leaves the fold over its bytes, and, data memory being
kept, the rest goes on from there over the bytes the first state holds. -/
theorem execAll_absorbBytesFnv {s : State} {v : Word} (h : FnvHolds s v) (spans : List (Word × Word))
    (hspans : ∀ q ∈ spans, admitted s.mem q.1 q.2 = true) :
    ∃ t, execAll (spans.map fun q => .absorbBytesFnv q.1 q.2) s = .next t ∧
      FnvHolds t ((spans.flatMap fun q => spanBytes s.mem q.1 q.2).foldl fnvByteStep v) := by
  induction spans generalizing s v with
  | nil => exact ⟨s, rfl, h⟩
  | cons q spans ih =>
    obtain ⟨hq, hrest⟩ := List.forall_mem_cons.1 hspans
    obtain ⟨t, hrun, ht⟩ := ih (h.absorb q.1 q.2) hrest
    refine ⟨t, ?run, ?holds⟩
    case run =>
      rw [List.map_cons, execAll_cons_of_next (exec_absorbBytesFnv_eq_effect h.phase h.alg hq), hrun]
    case holds =>
      rw [absorbBytesFnvEffect_mem] at ht
      rwa [List.flatMap_cons, List.foldl_append]

/-! ## The obligation -/

/-- Settles O37: the sequence leaves the fold over the concatenation, and so does one command, whose
bytes are that concatenation. -/
theorem fnvConcatenationLaw : Obligations.FnvConcatenationLaw := by
  intro s spans v hp ha hv hspoiled hspans
  have h : FnvHolds s v := ⟨hp, ha, hv, hspoiled⟩
  obtain ⟨t, hrun, ht⟩ := execAll_absorbBytesFnv h spans hspans
  refine ⟨t, hrun, ht.phase, ht.value, fun ptr len hspan hbytes => ?one⟩
  case one =>
    have hsame : spanBytes s.mem ptr len = spans.flatMap fun q => spanBytes s.mem q.1 q.2 := hbytes
    refine ⟨absorbBytesFnvEffect ptr len s, exec_absorbBytesFnv_eq_effect hp ha hspan, ?_⟩
    rw [(h.absorb ptr len).value, hsame, ht.value]

end Sys2Proof.Machine
end

section
/-! SUPPORT. The proof about 60_exceptions.md: where the algorithm check stands among the checks of a
whole command, and why INIT meets none of them in EMPTY and FINISHED. -/

namespace Sys2Proof.Machine

/-! ## The phase table (R124) -/

/-- ACTIVE allows every command but INIT. -/
theorem phaseAllows_active_iff {op : Op} : phaseAllows .active op = true ↔ op ≠ .init := by
  cases op <;> decide

/-- INIT is allowed in EMPTY and FINISHED only. -/
theorem phaseAllows_init_iff {p : Phase} :
    phaseAllows p .init = true ↔ p = .empty ∨ p = .finished := by
  cases p <;> decide

/-! ## The algorithm check (R125, R126) -/

/-- The algorithm check is the first to fail when the ones before it pass: the span is not looked at. -/
theorem failingCheck_algMismatch {i : Instr} {s : State}
    (hrefused : refusedCheck s.params i.op i.alg = none) (hwf : i.wellFormed = true)
    (hphase : phaseAllows s.inst.phase i.op = true) (hop : i.op ≠ .init)
    (halg : s.inst.alg ≠ some i.alg) : failingCheck i s = some .algMismatch := by
  have hpayload : payloadCheck i = none := if_pos hwf
  have hallowed : phaseCheck s.inst i = none := if_pos hphase
  have hmismatch : algCheck s.inst i = some .algMismatch := if_pos ⟨hop, halg⟩
  simp [failingCheck, hrefused, hpayload, hallowed, hmismatch]

/-! ## INIT (R125) -/

/-- The commands whose `OP` is INIT, one per algorithm. -/
theorem Instr.eq_init_of_op {i : Instr} (h : i.op = .init) :
    ∃ s0 s1 s2 s3, i = .initFnv s0 s1 s2 s3 ∨ i = .initAh s0 s1 s2 s3 := by
  cases i with
  | initFnv s0 s1 s2 s3 => exact ⟨s0, s1, s2, s3, .inl rfl⟩
  | initAh s0 s1 s2 s3 => exact ⟨s0, s1, s2, s3, .inr rfl⟩
  | _ => cases h

/-- The phase is the one check INIT can fail: it has no chunk, no span, and is not compared with `ALG`. -/
theorem failingCheck_init_eq_none {i : Instr} {s : State} (hop : i.op = .init)
    (hphase : s.inst.phase = .empty ∨ s.inst.phase = .finished) : failingCheck i s = none := by
  have hallowed : phaseAllows s.inst.phase i.op = true := by
    rw [hop]
    exact phaseAllows_init_iff.2 hphase
  obtain ⟨s0, s1, s2, s3, rfl | rfl⟩ := Instr.eq_init_of_op hop <;>
    exact failingCheck_none.2 ⟨rfl, rfl, hallowed, .inl rfl, rfl⟩

/-- INIT latches its own algorithm and makes the hasher live. -/
theorem effectOf_init {i : Instr} (s : State) (hop : i.op = .init) :
    (effectOf i s).inst.phase = .active ∧ (effectOf i s).inst.alg = some i.alg := by
  obtain ⟨s0, s1, s2, s3, rfl | rfl⟩ := Instr.eq_init_of_op hop
  · exact ⟨initFnvEffect_phase s, initFnvEffect_alg s⟩
  · exact ⟨initAhEffect_phase s0 s1 s2 s3 s, initAhEffect_alg s0 s1 s2 s3 s⟩

theorem exec_init_eq_effect {i : Instr} {s : State} (hop : i.op = .init)
    (hphase : s.inst.phase = .empty ∨ s.inst.phase = .finished) :
    exec i s = .next (effectOf i s) := by
  have hlive : s.inst.phase ≠ .faulted := by
    obtain hp | hp := hphase <;> simp [hp]
  rw [exec_eq_attempt, attempt_effect hlive (failingCheck_init_eq_none hop hphase)]

/-! ## The obligation -/

/-- Settles O19: in ACTIVE the algorithm check is the first to fail, and INIT, which no check but the
phase can stop, latches its own algorithm over any value of `ALG`. -/
theorem algorithmMismatchFaults : Obligations.AlgorithmMismatchFaults := by
  refine ⟨fun i s hwf hrefused hp hop halg => ?mismatch, fun i s a hop hphase => ?init⟩
  case mismatch =>
    have hallowed : phaseAllows s.inst.phase i.op = true := by
      rw [hp]
      exact phaseAllows_active_iff.2 hop
    rw [exec_eq_attempt, attempt_fault (by simp [hp])
      (failingCheck_algMismatch hrefused hwf hallowed hop halg)]
  case init => exact ⟨_, exec_init_eq_effect hop hphase, effectOf_init _ hop⟩

end Sys2Proof.Machine
end

section
/-! SUPPORT. The proofs about 30_encoding.md, sections 1 to 4: a command is its header and its payload,
the round trip between commands and words, and which words are illegal. -/

namespace Sys2Proof

/-! ## A command as its header and its payload (R60 to R62) -/

/-- The legal header of a command. -/
def Instr.header : Instr → Header
  | .initFnv _ _ _ _ => .init .fnv1a
  | .absorbBytesFnv _ _ => .absorbBytes .fnv1a
  | .absorbChunkFnv t nlog _ => .absorbChunk .fnv1a t nlog
  | .finishFnv => .finish .fnv1a
  | .initAh _ _ _ _ => .init .ahash
  | .absorbBytesAh _ _ => .absorbBytes .ahash
  | .absorbChunkAh t nlog _ => .absorbChunk .ahash t nlog
  | .finishAh => .finish .ahash

/-- The payload words of a command. -/
def Instr.payload : Instr → List Word
  | .initFnv s0 s1 s2 s3 => [s0, s1, s2, s3]
  | .absorbBytesFnv ptr len => [ptr, len]
  | .absorbChunkFnv _ _ es => es
  | .finishFnv => []
  | .initAh s0 s1 s2 s3 => [s0, s1, s2, s3]
  | .absorbBytesAh ptr len => [ptr, len]
  | .absorbChunkAh _ _ es => es
  | .finishAh => []

theorem encode_eq_cons (i : Instr) : encode i = i.header.word :: i.payload := by
  cases i <;> rfl

theorem Instr.header_op (i : Instr) : i.header.op = i.op := by cases i <;> rfl

theorem Instr.header_alg (i : Instr) : i.header.alg = i.alg := by cases i <;> rfl

theorem Instr.words_eq (i : Instr) : i.words = 1 + i.header.payloadWords := by cases i <;> rfl

theorem chunkWellFormed_iff {t : EType} {n : Fin 7} {es : List Word} :
    chunkWellFormed t n es = true ↔ es.length = 2 ^ n.val ∧ es.all t.fits = true := by
  simp [chunkWellFormed]

theorem Instr.wellFormed_absorbChunkInstr {t : EType} {n : Fin 7} {es : List Word} (a : Alg) :
    (absorbChunkInstr t n es a).wellFormed = chunkWellFormed t n es := by
  cases a <;> rfl

/-! ## The round trip -/

theorem decodePayload_chunk {a : Alg} {t : EType} {n : Fin 7} {es : List Word} (rest : List Word)
    (h : chunkWellFormed t n es = true) :
    decodePayload (.absorbChunk a t n) (es ++ rest) = .ok (absorbChunkInstr t n es a, rest) := by
  obtain ⟨hlen, hfits⟩ := chunkWellFormed_iff.1 h
  have henough : ¬(es ++ rest).length < 2 ^ n.val := by simp [hlen]
  rw [decodePayload, if_neg henough, ← hlen, List.take_left' rfl, List.drop_left' rfl, if_pos hfits]

theorem decodePayload_payload {i : Instr} (rest : List Word) (h : i.wellFormed = true) :
    decodePayload i.header (i.payload ++ rest) = .ok (i, rest) := by
  cases i with
  | absorbChunkFnv t n es | absorbChunkAh t n es => exact decodePayload_chunk rest h
  | _ => rfl

/-- A payload that is read is the whole payload of a well-formed command with that header. -/
theorem decodePayload_eq_ok {hd : Header} {ws rest : List Word} {i : Instr}
    (h : decodePayload hd ws = .ok (i, rest)) :
    i.wellFormed = true ∧ i.header = hd ∧ ws = i.payload ++ rest := by
  unfold decodePayload at h
  split at h
  case h_5 a t n =>
    split_ifs at h with hlen hfits
    cases h
    have hwf : chunkWellFormed t n (ws.take (2 ^ n.val)) = true :=
      chunkWellFormed_iff.2 ⟨List.length_take_of_le (not_lt.1 hlen), hfits⟩
    rw [Instr.wellFormed_absorbChunkInstr]
    refine ⟨hwf, by cases a <;> rfl, ?_⟩
    cases a <;> exact (List.take_append_drop _ ws).symm
  case h_1 a _ _ _ _ _ | h_3 a _ _ _ | h_6 a =>
    cases h
    cases a <;> exact ⟨rfl, rfl, rfl⟩
  all_goals cases h

theorem decode_encode_append {i : Instr} (rest : List Word) (h : i.wellFormed = true) :
    decode (encode i ++ rest) = .ok (i, rest) := by
  simp only [encode_eq_cons, List.cons_append, decode, decodeHeader_word,
    decodePayload_payload rest h]

theorem decode_eq_ok {ws rest : List Word} {i : Instr} (h : decode ws = .ok (i, rest)) :
    i.wellFormed = true ∧ ws = encode i ++ rest := by
  cases ws with
  | nil => cases h
  | cons w ws =>
    obtain ⟨hd, hw, hpay⟩ := decode_cons_eq_ok h
    obtain ⟨hwf, rfl, rfl⟩ := decodePayload_eq_ok hpay
    rw [encode_eq_cons, decodeHeader_eq_ok_iff.1 hw]
    exact ⟨hwf, rfl⟩

/-- Every well-formed command has as many words as `LEN(cmd)` says (R63). -/
theorem encode_length {i : Instr} (h : i.wellFormed = true) : (encode i).length = i.words := by
  cases i with
  | absorbChunkFnv t n es => exact Laws.EncodeLength.absorbChunkFnv t n es h
  | absorbChunkAh t n es => exact Laws.EncodeLength.absorbChunkAh t n es h
  | _ => rfl

/-! ## Illegal headers and payloads (R70) -/

theorem Op.ofCode_eq_none_iff {c : BitVec 4} :
    Op.ofCode c = none ↔ c.toNat = 0 ∨ 5 ≤ c.toNat := by
  revert c; decide

theorem Alg.ofCode_eq_none_iff {c : BitVec 4} : Alg.ofCode c = none ↔ 2 ≤ c.toNat := by
  revert c; decide

theorem EType.ofCode_eq_none_iff {c : BitVec 4} : EType.ofCode c = none ↔ 12 ≤ c.toNat := by
  revert c; decide

theorem nlogOfCode_eq_none_iff {c : BitVec 3} : nlogOfCode c = none ↔ c.toNat = 7 := by
  revert c; decide

theorem plainHeader_eq_error_iff {w : Word} {h : Header} {e : DecodeError} :
    plainHeader w h = .error e ↔ e = .illegalField ∧ (etypeField w ≠ 0#4 ∨ nlogField w ≠ 0#3) := by
  unfold plainHeader
  split_ifs with hc
  · simp [hc]
  · simp only [Except.error.injEq, eq_comm (b := e), not_and_or] at hc ⊢
    exact (and_iff_left hc).symm

theorem chunkHeader_eq_error_iff {w : Word} {a : Alg} {e : DecodeError} :
    chunkHeader w a = .error e ↔
      e = .illegalField ∧ (12 ≤ (etypeField w).toNat ∨ (nlogField w).toNat = 7) := by
  rw [← EType.ofCode_eq_none_iff, ← nlogOfCode_eq_none_iff, chunkHeader]
  cases EType.ofCode (etypeField w) <;> cases nlogOfCode (nlogField w) <;> simp [eq_comm]

/-- Which fields of a header word are illegal once its `OP` is legal. -/
def illegalFields (w : Word) : Prop :=
  2 ≤ (algField w).toNat ∨ reservedField w ≠ 0#49 ∨
    ((opField w).toNat ≠ 3 ∧ (etypeField w ≠ 0#4 ∨ nlogField w ≠ 0#3)) ∨
    ((opField w).toNat = 3 ∧ (12 ≤ (etypeField w).toNat ∨ (nlogField w).toNat = 7))

/-- With a legal `OP` the other fields are read, and an illegal one of them is the only error. -/
theorem decodeHeader_eq_error_of_op {w : Word} {op : Op} {e : DecodeError}
    (hop : Op.ofCode (opField w) = some op) :
    decodeHeader w = .error e ↔ e = .illegalField ∧ illegalFields w := by
  have hcode := Op.code_of_ofCode hop
  rw [decodeHeader, hop, illegalFields, ← Alg.ofCode_eq_none_iff, ← hcode]
  cases Alg.ofCode (algField w) with
  | none => simp [eq_comm]
  | some a =>
    by_cases hres : reservedField w = 0#49
    · cases op <;> simp [hres, Op.code, plainHeader_eq_error_iff, chunkHeader_eq_error_iff]
    · simp [hres, eq_comm]

theorem decodeHeader_eq_illegalOp_iff {w : Word} :
    decodeHeader w = .error .illegalOp ↔ (opField w).toNat = 0 ∨ 5 ≤ (opField w).toNat := by
  refine ⟨fun h => ?_, decodeHeader_reservedOp⟩
  rw [← Op.ofCode_eq_none_iff]
  cases hop : Op.ofCode (opField w) with
  | none => rfl
  | some op => simp [decodeHeader_eq_error_of_op hop] at h

theorem decodeHeader_eq_illegalField_iff {w : Word} :
    decodeHeader w = .error .illegalField ↔
      (1 ≤ (opField w).toNat ∧ (opField w).toNat ≤ 4) ∧ illegalFields w := by
  have hlegal : 1 ≤ (opField w).toNat ∧ (opField w).toNat ≤ 4 ↔ Op.ofCode (opField w) ≠ none := by
    rw [ne_eq, Op.ofCode_eq_none_iff]
    omega
  rw [hlegal]
  cases hop : Op.ofCode (opField w) with
  | none => simp [decodeHeader, hop]
  | some op => simp [decodeHeader_eq_error_of_op hop]

theorem decodePayload_chunk_illegalField_iff {a : Alg} {t : EType} {n : Fin 7} {ws : List Word}
    (hlen : 2 ^ n.val ≤ ws.length) :
    decodePayload (.absorbChunk a t n) ws = .error .illegalField ↔
      ∃ e ∈ ws.take (2 ^ n.val), 2 ^ t.width ≤ e.toNat := by
  rw [decodePayload, if_neg (not_lt.2 hlen)]
  split_ifs with hfits <;> simpa [EType.fits] using hfits

/-- Words are missing exactly when there are fewer than the header asks for. -/
theorem decodePayload_truncated_iff {hd : Header} {ws : List Word} :
    decodePayload hd ws = .error .truncated ↔ ws.length < hd.payloadWords := by
  unfold decodePayload
  split
  case h_2 a hshort =>
    rcases ws with _ | ⟨s0, _ | ⟨s1, _ | ⟨s2, _ | ⟨s3, rest⟩⟩⟩⟩ <;> simp [Header.payloadWords]
    exact (hshort s0 s1 s2 s3 rest rfl).elim
  case h_4 a hshort =>
    rcases ws with _ | ⟨ptr, _ | ⟨len, rest⟩⟩ <;> simp [Header.payloadWords]
    exact (hshort ptr len rest rfl).elim
  case h_5 a t n => split_ifs <;> simp_all [Header.payloadWords]
  all_goals simp [Header.payloadWords]

end Sys2Proof

namespace Sys2Proof.Machine

/-! ## A step on an illegal word (60_exceptions.md R126, checks 1 to 5) -/

section
variable {s : State} {w : Word} {ws : List Word} {h : Header}

/-- Check 3: the header alone is refused. -/
theorem step_refused {f : FaultCode} (hp : s.inst.phase ≠ .faulted)
    (hw : pendingWords s.inst = w :: ws) (hh : decodeHeader w = .ok h)
    (hf : refusedCheck s.params h.op h.alg = some f) : step s = .next (takeFault f s) := by
  simp [step, fetch, hp, hw, hh, hf]

/-- Past checks 1 to 3 the fetch looks at the payload. -/
theorem fetch_eq_fetchPayload (hp : s.inst.phase ≠ .faulted) (hw : pendingWords s.inst = w :: ws)
    (hh : decodeHeader w = .ok h) (hr : refusedCheck s.params h.op h.alg = none) :
    fetch s = fetchPayload s.inst h ws := by
  simp [fetch, hp, hw, hh, hr]

/-- Check 5: a payload bit is illegal. -/
theorem step_illegalPayload (hp : s.inst.phase ≠ .faulted) (hw : pendingWords s.inst = w :: ws)
    (hh : decodeHeader w = .ok h) (hr : refusedCheck s.params h.op h.alg = none)
    (hbad : decodePayload h ws = .error .illegalField) :
    step s = .next (takeFault .illegalField s) := by
  simp [step, fetch_eq_fetchPayload hp hw hh hr, fetchPayload, hbad, faultOfError]

/-- Check 4: a word of the command is missing. -/
theorem step_missingWords (hp : s.inst.phase ≠ .faulted) (hw : pendingWords s.inst = w :: ws)
    (hh : decodeHeader w = .ok h) (hr : refusedCheck s.params h.op h.alg = none)
    (hshort : ws.length < h.payloadWords) :
    step s = .next (if s.inst.ended then takeFault .truncated s else s) := by
  simp only [step, fetch_eq_fetchPayload hp hw hh hr, fetchPayload,
    decodePayload_truncated_iff.2 hshort, missingWords]
  cases s.inst.ended <;> rfl

end

theorem refusedCheck_refuse {p : Config.Params} (h : p.chunkMode = .refuse) :
    refusedCheck p .absorbChunk .ahash = some .refused := by
  simp [refusedCheck, h]

/-! ## The obligations -/

/-- Settles O1: the header word decodes to the header, and the payload to the command. -/
theorem decodeOfEncode : Obligations.DecodeOfEncode :=
  fun _ rest h => decode_encode_append rest h

/-- Settles O2: a legal header has one word, and a payload that is read is the command's own. -/
theorem encodeOfDecode : Obligations.EncodeOfDecode :=
  fun _ _ _ h => decode_eq_ok h

/-- Settles O4: the errors of a header field by field, of a chunk payload element by element, and the
step that takes each of them. -/
theorem illegalEncodingsFault : Obligations.IllegalEncodingsFault := by
  intro w
  refine ⟨decodeHeader_eq_illegalOp_iff, decodeHeader_eq_illegalField_iff,
    fun a t n ws hlen => decodePayload_chunk_illegalField_iff hlen, fun s ws hp hw => ?_⟩
  exact ⟨step_header_error hp hw, step_header_error hp hw, fun h => step_illegalPayload hp hw,
    fun t n hh hmode => step_refused hp hw hh (refusedCheck_refuse hmode)⟩

/-- Settles O6: each list is decoded by evaluation. -/
theorem specWordsDecode : Obligations.SpecWordsDecode := by
  unfold Obligations.SpecWordsDecode
  decide

end Sys2Proof.Machine
end

section
/-! SUPPORT. The proofs about 60_exceptions.md and the fetch of 20_memory.md: which check of a command
fails first, what the step makes of it, and what holds of a FAULTED instance. -/

namespace Sys2Proof.Machine

/-! ## The first failing check of a whole command (R126) -/

section
variable {i : Instr} {s : State}

/-- Check 3 comes before all others of a whole command. -/
theorem failingCheck_refused {f : FaultCode} (hr : refusedCheck s.params i.op i.alg = some f) :
    failingCheck i s = some f := by
  simp [failingCheck, hr]

/-- Check 6 comes before the algorithm and the span. -/
theorem failingCheck_sequence (hr : refusedCheck s.params i.op i.alg = none)
    (hwf : i.wellFormed = true) (hphase : phaseAllows s.inst.phase i.op = false) :
    failingCheck i s = some .sequence := by
  simp [failingCheck, hr, payloadCheck, hwf, phaseCheck, hphase]

theorem algCheck_eq_none (halg : i.op = .init ∨ s.inst.alg = some i.alg) :
    algCheck s.inst i = none := by
  unfold algCheck
  split_ifs with h
  · exact absurd halg (by simpa using h)
  · rfl

/-- Check 8 is the last one. -/
theorem failingCheck_bounds {ptr len : Word} (hr : refusedCheck s.params i.op i.alg = none)
    (hwf : i.wellFormed = true) (hphase : phaseAllows s.inst.phase i.op = true)
    (halg : i.op = .init ∨ s.inst.alg = some i.alg) (hspan : spanOf i = some (ptr, len))
    (hbad : admitted s.mem ptr len = false) : failingCheck i s = some .bounds := by
  simp [failingCheck, hr, payloadCheck, hwf, phaseCheck, hphase, algCheck_eq_none halg, boundsCheck,
    hspan, hbad]

theorem boundsCheck_eq_none_iff {m : Memory} :
    boundsCheck m i = none ↔ ∀ ptr len, spanOf i = some (ptr, len) → admitted m ptr len = true := by
  unfold boundsCheck
  cases spanOf i with
  | none => simp
  | some q => obtain ⟨ptr, len⟩ := q; simp

/-- The checks of a whole command read the parameters, `PHASE`, `ALG` and the admission of its span. -/
theorem failingCheck_congr {s' : State} (hparams : s'.params = s.params)
    (hphase : s'.inst.phase = s.inst.phase) (halg : s'.inst.alg = s.inst.alg)
    (hspan : ∀ ptr len, spanOf i = some (ptr, len) →
      admitted s'.mem ptr len = admitted s.mem ptr len) :
    failingCheck i s' = failingCheck i s := by
  have hbounds : boundsCheck s'.mem i = boundsCheck s.mem i := by
    unfold boundsCheck
    cases hs : spanOf i with
    | none => rfl
    | some q => simp only [hspan q.1 q.2 hs]
  simp only [failingCheck, hparams, phaseCheck, hphase, algCheck, halg, hbounds]

/-! ## The phase table (R124) -/

/-- EMPTY and FINISHED allow INIT alone. -/
theorem phaseAllows_idle {p : Phase} {op : Op} (hp : p = .empty ∨ p = .finished) (hop : op ≠ .init) :
    phaseAllows p op = false := by
  obtain rfl | rfl := hp
  all_goals
    cases op with
    | init => exact absurd rfl hop
    | absorbBytes | absorbChunk | finish => rfl

/-! ## What an effect does to PHASE and CP -/

theorem effectOf_cp (i : Instr) (s : State) :
    (effectOf i s).inst.cp = s.inst.cp + BitVec.ofNat 64 i.words := by
  cases i <;> simp [effectOf, Instr.words]

/-- An effect leaves the phase R124 names: ACTIVE after INIT, FINISHED after FINISH, else as it was. -/
theorem effectOf_phase (i : Instr) (s : State) :
    (effectOf i s).inst.phase =
      if i.op = .init then .active else if i.op = .finish then .finished else s.inst.phase := by
  cases i <;> simp [effectOf, Instr.op]

theorem effectOf_phase_ne_faulted (i : Instr) (hp : s.inst.phase ≠ .faulted) :
    (effectOf i s).inst.phase ≠ .faulted := by
  rw [effectOf_phase]
  split_ifs <;> simp [hp]

/-! ## Running a command -/

theorem exec_faulted (i : Instr) (hp : s.inst.phase = .faulted) : exec i s = .next s := by
  rw [exec_eq_attempt, attempt_faulted hp]

theorem exec_fault {f : FaultCode} (hp : s.inst.phase ≠ .faulted) (hf : failingCheck i s = some f) :
    exec i s = .next (takeFault f s) := by
  rw [exec_eq_attempt, attempt_fault hp hf]

theorem exec_effect (hp : s.inst.phase ≠ .faulted) (hf : failingCheck i s = none) :
    exec i s = .next (effectOf i s) := by
  rw [exec_eq_attempt, attempt_effect hp hf]

theorem exec_next (i : Instr) (s : State) : ∃ t, exec i s = .next t := by
  by_cases hp : s.inst.phase = .faulted
  · exact ⟨s, exec_faulted i hp⟩
  · cases hf : failingCheck i s with
    | some f => exact ⟨_, exec_fault hp hf⟩
    | none => exact ⟨_, exec_effect hp hf⟩

/-! ## Running a step -/

theorem fetch_faulted (hp : s.inst.phase = .faulted) : fetch s = .idle := by
  simp [fetch, hp]

theorem step_faulted (hp : s.inst.phase = .faulted) : step s = .next s := by
  simp [step, fetch_faulted hp]

theorem step_noWords (hw : pendingWords s.inst = []) : step s = .next s := by
  simp [step, fetch, hw]

theorem step_next (s : State) : ∃ t, step s = .next t := by
  unfold step
  cases fetch s with
  | idle => exact ⟨s, rfl⟩
  | faults f => exact ⟨takeFault f s, rfl⟩
  | command i => exact exec_next i s

/-- Words that decode begin with the command's header and go on with its payload. -/
theorem decode_cons_header {w : Word} {ws rest : List Word}
    (h : decode (w :: ws) = .ok (i, rest)) :
    decodeHeader w = .ok i.header ∧ decodePayload i.header ws = .ok (i, rest) := by
  obtain ⟨hd, hw, hpay⟩ := decode_cons_eq_ok h
  obtain ⟨-, rfl, -⟩ := decodePayload_eq_ok hpay
  exact ⟨hw, hpay⟩

/-- Where the words at `CP` decode, the checks that the fetch makes are those of the command. -/
theorem step_eq_exec {rest : List Word} (h : decode (pendingWords s.inst) = .ok (i, rest)) :
    step s = exec i s := by
  by_cases hp : s.inst.phase = .faulted
  · rw [step_faulted hp, exec_faulted i hp]
  cases hw : pendingWords s.inst with
  | nil => simp [hw, decode] at h
  | cons w ws =>
    rw [hw] at h
    obtain ⟨hhd, hpay⟩ := decode_cons_header h
    cases hr : refusedCheck s.params i.header.op i.header.alg with
    | some f =>
      rw [step_refused hp hw hhd hr]
      rw [i.header_op, i.header_alg] at hr
      rw [exec_fault hp (failingCheck_refused hr)]
    | none => simp [step, fetch_eq_fetchPayload hp hw hhd hr, fetchPayload, hpay]

/-- The fetch reads the words from `CP` on, `PHASE`, the parameters and the kind of stream. -/
theorem fetch_congr {s' : State} (hparams : s'.params = s.params)
    (hphase : s'.inst.phase = s.inst.phase) (hwords : pendingWords s'.inst = pendingWords s.inst)
    (hended : s'.inst.ended = s.inst.ended) : fetch s' = fetch s := by
  simp only [fetch, hparams, hphase, hwords, fetchPayload, missingWords, hended]

end

/-! ## A FAULTED instance -/

/-- A host write to `CMD` of an instance that takes the word. -/
theorem hostWrite_cmd {s : State} {v : Word} {c : Instance}
    (h : s.inst.base.toNat + blockBytes ≤ 2 ^ 64) (hw : writeCmd v s.inst = .next c) :
    hostWrite s.inst.base 64 v s = .next { s with inst := c } := by
  have hcmd : registerAt 0 64 = .ok .cmd := by decide
  simpa using hostWrite_next (off := 0) h (by decide) hcmd hw

theorem hostWrite_cmd_faulted {s : State} (v : Word) (h : s.inst.base.toNat + blockBytes ≤ 2 ^ 64)
    (hp : s.inst.phase = .faulted) : hostWrite s.inst.base 64 v s = .next s :=
  hostWrite_cmd h (if_pos hp)

/-! ## The obligations -/

/-- Settles O15, by `step_eq_exec`. -/
theorem stepRunsDecodedCommand : Obligations.StepRunsDecodedCommand :=
  fun _ _ _ h => step_eq_exec h

/-- Settles O16, by check 4 on the two kinds of stream. -/
theorem incompleteCommandWaitsOrTruncates : Obligations.IncompleteCommandWaitsOrTruncates := by
  refine ⟨fun s hw => step_noWords hw, fun s w ws h hp hw hh hr hshort => ?_⟩
  rw [step_missingWords hp hw hh hr hshort]
  exact ⟨fun he => by simp [he], fun he => by simp [he]⟩

/-- Settles O17: the checks of the header and of the payload by the fetch, the others by the first
failing check of the command, which the step runs. -/
theorem checksRunInOrder : Obligations.ChecksRunInOrder := by
  refine ⟨fun s w ws hp hw => ⟨step_header_error hp hw, step_header_error hp hw, fun h hh =>
    ⟨step_refused hp hw hh, fun hr => ⟨step_missingWords hp hw hh hr, fun _ =>
      ⟨step_illegalPayload hp hw hh hr, fun i rest hd => ?whole⟩⟩⟩⟩,
    fun i s s' hparams hphase halg hspan =>
      failingCheck_congr hparams hphase halg fun ptr len _ => hspan ptr len,
    fun s s' => fetch_congr⟩
  case whole =>
    obtain ⟨hwf, -⟩ := decode_eq_ok hd
    obtain ⟨hhi, -⟩ := decode_cons_header hd
    obtain rfl : i.header = h := Except.ok.inj (hhi.symm.trans hh)
    rw [i.header_op, i.header_alg] at hr
    rw [step_eq_exec (hw ▸ hd)]
    refine ⟨fun hphase => exec_fault hp (failingCheck_sequence hr hwf hphase), fun hphase =>
      ⟨fun hop halg => exec_fault hp (failingCheck_algMismatch hr hwf hphase hop halg),
        fun halg => ⟨fun ptr len hspan hbad =>
          exec_fault hp (failingCheck_bounds hr hwf hphase halg hspan hbad), fun hspans => ?_⟩⟩⟩
    have hnone : failingCheck i s = none :=
      failingCheck_none.2 ⟨hr, hwf, hphase, halg, boundsCheck_eq_none_iff.2 hspans⟩
    exact ⟨effectOf i s, exec_effect hp hnone, effectOf_phase_ne_faulted i hp, effectOf_fault i s,
      effectOf_cp i s⟩

/-- Settles O18, phase by phase: the phase check, or the effect with the phase it leaves. -/
theorem phaseTable : Obligations.PhaseTable := by
  intro i s hwf hr
  refine ⟨fun hphase => ⟨fun hop => ?start, fun hop => ?idle⟩,
    fun hphase => ⟨fun hop => ?restart, fun hop halg hbounds => ?live⟩, exec_faulted i⟩
  case start =>
    obtain ⟨hactive, -⟩ := effectOf_init s hop
    refine ⟨effectOf i s, exec_init_eq_effect hop hphase, hactive, effectOf_fault i s, ?_⟩
    obtain ⟨s0, s1, s2, s3, rfl | rfl⟩ := Instr.eq_init_of_op hop <;> exact effectOf_cp _ s
  case idle =>
    have hlive : s.inst.phase ≠ .faulted := by obtain hp | hp := hphase <;> simp [hp]
    exact exec_fault hlive (failingCheck_sequence hr hwf (phaseAllows_idle hphase hop))
  case restart =>
    refine exec_fault (by simp [hphase]) (failingCheck_sequence hr hwf ?_)
    rw [hphase, hop]
    rfl
  case live =>
    have hlive : s.inst.phase ≠ .faulted := by simp [hphase]
    have hnone : failingCheck i s = none :=
      failingCheck_none.2 ⟨hr, hwf, hphase ▸ phaseAllows_active_iff.2 hop, .inr halg, hbounds⟩
    refine ⟨effectOf i s, exec_effect hlive hnone, ?_, effectOf_fault i s, effectOf_cp i s⟩
    rw [effectOf_phase, if_neg hop, hphase]

/-- Settles O20: the meaning of admission, and check 8 of the two commands that have a span. -/
theorem spanOutsideMemoryFaults : Obligations.SpanOutsideMemoryFaults := by
  intro s ptr len hmem
  refine ⟨admitted_spec hmem ptr len, fun hbad hphase => ?_⟩
  have hlive : s.inst.phase ≠ .faulted := by simp [hphase]
  have hallowed : phaseAllows s.inst.phase .absorbBytes = true := by rw [hphase]; rfl
  exact ⟨fun halg => exec_fault hlive (failingCheck_bounds rfl rfl hallowed (.inr halg) rfl hbad),
    fun halg => exec_fault hlive (failingCheck_bounds rfl rfl hallowed (.inr halg) rfl hbad)⟩

/-- Settles O21: check 3 is the first one of a whole command. -/
theorem refuseModeFaultsAHashChunks : Obligations.RefuseModeFaultsAHashChunks :=
  fun _ _ _ _ hmode hp => exec_fault hp (failingCheck_refused (refusedCheck_refuse hmode))

/-- Settles O22. -/
theorem engineNeverStops : Obligations.EngineNeverStops :=
  ⟨step_next, exec_next⟩

/-- Settles O23: `takeFault` as an update of three registers, and a FAULTED instance that no step, no
command and no word changes. -/
theorem faultEntryIsPrecise : Obligations.FaultEntryIsPrecise := by
  intro f s hf
  have hp : (takeFault f s).inst.phase = .faulted := takeFault_phase f s
  refine ⟨rfl, fun i => exec_fault, step_faulted hp, by simp [cleanEnd], by simp [faultedEnd],
    fun i => exec_faulted i hp, fun v hb => hostWrite_cmd_faulted v hb hp,
    statusWord_faultField _, ?phase, ?faultCp⟩
  case phase => rw [statusWord_phaseField, hp]; rfl
  case faultCp => rw [faultCpWord, takeFault_fault, if_neg hf, takeFault_faultCp]

/-- Settles O24: the cases of `hostAct_inst_cases` touch none of these registers but the stream, and that
one not while FAULTED. -/
theorem onlyResetLeavesFaulted : Obligations.OnlyResetLeavesFaulted := by
  intro s hp
  refine ⟨step_faulted hp, fun e t hr hra hs h => ?event, fun k t h => ?select, rfl, rfl⟩
  case event =>
    obtain hi | ⟨hlive, -⟩ | hi | ⟨a, hi⟩ | hi := hostAct_inst_cases hr hra hs h
    case inr.inl => exact absurd hp hlive
    all_goals rw [hi]; exact ⟨hp, rfl, rfl, rfl, rfl⟩
  case select =>
    simp only [hostAct, selectInstance] at h
    split at h <;> cases h
    rename_i hc
    obtain ⟨hk, -⟩ := List.getElem?_eq_some_iff.1 hc
    exact List.mem_set hk s.inst

end Sys2Proof.Machine
end

section
/-! SUPPORT. The proofs about every state a run reaches: the invariant under a step and under an outside
event, the end of a finite stream (70_reset_and_hazards.md R146), and the steps of two instances
(20_memory.md R51). -/

namespace Sys2Proof.Machine

/-! ## The parts of the invariant -/

theorem inv_iff {c : Instance} : c.inv = true ↔
    (c.algInv = true ∧ c.phaseInv = true) ∧ c.faultInv = true ∧ c.streamInv = true := by
  simp [Instance.inv, and_assoc]

theorem State.inv_iff {s : State} : s.inv = true ↔
    Memory.wf s.mem = true ∧ ∀ c ∈ s.instances, c.inv = true := by
  simp [State.inv, State.instances, and_assoc]

theorem State.inst_inv {s : State} (h : s.inv = true) : s.inst.inv = true := by
  obtain ⟨-, hinst⟩ := State.inv_iff.1 h
  exact hinst s.inst List.mem_cons_self

theorem streamInv_iff {c : Instance} : c.streamInv = true ↔
    c.cp.toNat ≤ c.stream.length ∧ c.stream.length < 2 ^ 64 := by
  simp [Instance.streamInv]

theorem faultInv_of_live {c : Instance} (hp : c.phase ≠ .faulted) :
    c.faultInv = true ↔ c.fault = .noFault ∧ c.faultCp = 0#64 := by
  simp [Instance.faultInv, hp]

/-! ## The registers of a live and of a finished hasher (R22 to R28) -/

section
variable {c : Instance}

theorem registersInv_active_fnv (hp : c.phase = .active) (ha : c.alg = some .fnv1a) :
    (c.algInv = true ∧ c.phaseInv = true) ↔
      c.noAhash = true ∧ c.digest.isNone = true ∧ c.value.isSome = true := by
  simp [Instance.algInv, Instance.phaseInv, hp, ha]

theorem registersInv_active_ahash (hp : c.phase = .active) (ha : c.alg = some .ahash) :
    (c.algInv = true ∧ c.phaseInv = true) ↔
      c.value.isNone = true ∧ c.digest.isNone = true ∧ c.fullAhash = true := by
  simp [Instance.algInv, Instance.phaseInv, hp, ha]

theorem registersInv_finished {a : Alg} (hp : c.phase = .finished) (ha : c.alg = some a)
    (hahash : c.noAhash = true) (hvalue : c.value.isNone = true) (hdigest : c.digest.isSome = true)
    (htaint : c.tainted = false) : c.algInv = true ∧ c.phaseInv = true := by
  cases a <;> simp [Instance.algInv, Instance.phaseInv, hp, ha, hahash, hvalue, hdigest, htaint]

theorem fullAhash_iff : c.fullAhash = true ↔
    c.buffer.isSome = true ∧ c.pad.isSome = true ∧ c.ek0.isSome = true ∧ c.ek1.isSome = true := by
  simp [Instance.fullAhash, and_assoc]

theorem noAhash_iff : c.noAhash = true ↔
    c.buffer = none ∧ c.pad = none ∧ c.ek0 = none ∧ c.ek1 = none := by
  simp [Instance.noAhash, and_assoc]

end

/-! ## The invariant under a step -/

section
variable {i : Instr} {s : State}

/-- The commands other than INIT pass their checks on a live hasher of their algorithm only. -/
theorem live_of_failingCheck_none (hop : i.op ≠ .init) (hc : failingCheck i s = none) :
    s.inst.phase = .active ∧ s.inst.alg = some i.alg := by
  obtain ⟨-, -, hphase, halg, -⟩ := failingCheck_none.1 hc
  refine ⟨?_, halg.resolve_left hop⟩
  revert hphase hop
  cases s.inst.phase <;> cases i.op <;> simp [phaseAllows]

/-- The effect of a command whose checks pass leaves the registers as its phase and algorithm ask. -/
theorem effectOf_registersInv (hc : failingCheck i s = none)
    (h : s.inst.algInv = true ∧ s.inst.phaseInv = true) :
    (effectOf i s).inst.algInv = true ∧ (effectOf i s).inst.phaseInv = true := by
  cases i with
  | initFnv s0 s1 s2 s3 => exact (registersInv_active_fnv rfl rfl).2 ⟨rfl, rfl, rfl⟩
  | initAh s0 s1 s2 s3 => exact (registersInv_active_ahash rfl rfl).2 ⟨rfl, rfl, rfl⟩
  | absorbBytesFnv | absorbChunkFnv =>
    obtain ⟨hp, ha⟩ := live_of_failingCheck_none (by simp [Instr.op]) hc
    obtain ⟨hno, hdigest, -⟩ := (registersInv_active_fnv hp ha).1 h
    refine (registersInv_active_fnv (by simp [effectOf, hp])
      (by simp [effectOf, ha, Instr.alg])).2 ?_
    simpa [effectOf, hdigest, noAhash_iff] using hno
  | absorbBytesAh | absorbChunkAh =>
    obtain ⟨hp, ha⟩ := live_of_failingCheck_none (by simp [Instr.op]) hc
    obtain ⟨hvalue, hdigest, hfull⟩ := (registersInv_active_ahash hp ha).1 h
    obtain ⟨-, hkeys⟩ := fullAhash_iff.1 hfull
    refine (registersInv_active_ahash (by simp [effectOf, hp])
      (by simp [effectOf, ha, Instr.alg])).2 ?_
    simpa [effectOf, hdigest, hvalue, fullAhash_iff] using hkeys
  | finishFnv =>
    obtain ⟨hp, ha⟩ := live_of_failingCheck_none (by simp [Instr.op]) hc
    obtain ⟨hno, -, -⟩ := (registersInv_active_fnv hp ha).1 h
    have hno' : (finishFnvEffect s).inst.noAhash = true := by simpa [noAhash_iff] using hno
    exact registersInv_finished rfl ((finishFnvEffect_alg s).trans ha) hno' rfl rfl
      (settleHasher_tainted s.inst)
  | finishAh =>
    obtain ⟨hp, ha⟩ := live_of_failingCheck_none (by simp [Instr.op]) hc
    obtain ⟨hvalue, -, -⟩ := (registersInv_active_ahash hp ha).1 h
    have hvalue' : (finishAhEffect s).inst.value.isNone = true := by simpa using hvalue
    exact registersInv_finished rfl ((finishAhEffect_alg s).trans ha) rfl hvalue' rfl
      (settleHasher_tainted s.inst)

/-- A whole command ends within the stream, so that `CP` advances past it without wrapping. -/
theorem cp_add_words {c : Instance} {rest : List Word} (hc : c.streamInv = true)
    (hd : decode (pendingWords c) = .ok (i, rest)) :
    (c.cp + BitVec.ofNat 64 i.words).toNat = c.cp.toNat + i.words ∧
      c.cp.toNat + i.words ≤ c.stream.length := by
  obtain ⟨hcp, hlen⟩ := streamInv_iff.1 hc
  obtain ⟨hwf, hwords⟩ := decode_eq_ok hd
  have hpending := congrArg List.length hwords
  rw [pendingWords, List.length_drop, List.length_append, encode_length hwf] at hpending
  have hle : c.cp.toNat + i.words ≤ c.stream.length := by omega
  refine ⟨?_, hle⟩
  rw [BitVec.toNat_add, BitVec.toNat_ofNat, Nat.mod_eq_of_lt (a := i.words) (by omega),
    Nat.mod_eq_of_lt (by omega)]

theorem effectOf_stream (i : Instr) (s : State) :
    (effectOf i s).inst.stream = s.inst.stream := by
  cases i <;> simp [effectOf]

theorem effectOf_ended (i : Instr) (s : State) : (effectOf i s).inst.ended = s.inst.ended := by
  cases i <;> simp [effectOf]

theorem effectOf_params (i : Instr) (s : State) : (effectOf i s).params = s.params := by
  cases i <;> rfl

theorem effectOf_inv (hf : fetch s = .command i) (hc : failingCheck i s = none)
    (h : s.inst.inv = true) : (effectOf i s).inst.inv = true := by
  obtain ⟨hregs, hfault, hstream⟩ := inv_iff.1 h
  obtain ⟨hp, rest, hd⟩ := fetch_command hf
  obtain ⟨hcp, hle⟩ := cp_add_words hstream hd
  obtain ⟨-, hlen⟩ := streamInv_iff.1 hstream
  refine inv_iff.2 ⟨effectOf_registersInv hc hregs, ?fault, ?stream⟩
  case fault =>
    rw [faultInv_of_live (effectOf_phase_ne_faulted i hp), effectOf_fault, effectOf_faultCp]
    exact (faultInv_of_live hp).1 hfault
  case stream =>
    rw [streamInv_iff, effectOf_stream, effectOf_cp, hcp]
    exact ⟨hle, hlen⟩

/-- Fault entry keeps the accumulators and the stream, and FAULTED asks nothing of the accumulators
against the phase. -/
theorem takeFault_inv {f : FaultCode} (hf : f ≠ .noFault) (h : s.inst.inv = true) :
    (takeFault f s).inst.inv = true := by
  obtain ⟨⟨halg, -⟩, -, hstream⟩ := inv_iff.1 h
  exact inv_iff.2 ⟨⟨halg, rfl⟩, by simp [Instance.faultInv, hf], hstream⟩

end

/-- The machine with another instance in the place of the one a step runs. -/
def State.withInst (c : Instance) (s : State) : State := { s with inst := c }

/-- A step changes the stepped instance only. -/
theorem step_eq_withInst {s t : State} (h : step s = .next t) : t = s.withInst t.inst := by
  obtain rfl | ⟨-, f, -, rfl⟩ | ⟨-, i, -, -, rfl⟩ := step_outcomes h
  · rfl
  · rfl
  · cases i <;> rfl

theorem step_inst_inv {s t : State} (h : step s = .next t) (hs : s.inst.inv = true) :
    t.inst.inv = true := by
  obtain rfl | ⟨-, f, hf, rfl⟩ | ⟨-, i, hi, hc, rfl⟩ := step_outcomes h
  · exact hs
  · exact takeFault_inv hf hs
  · exact effectOf_inv hi hc hs

/-! ## The invariant under an outside event -/

section
variable {c : Instance}

theorem writeCmd_inv {c' : Instance} {v : Word} (hw : writeCmd v c = .next c') (h : c.inv = true) :
    c'.inv = true := by
  obtain ⟨-, rfl⟩ | ⟨-, -, hroom, rfl⟩ := writeCmd_cases hw
  · exact h
  · obtain ⟨hregs, hfault, hstream⟩ := inv_iff.1 h
    obtain ⟨hcp, -⟩ := streamInv_iff.1 hstream
    refine inv_iff.2 ⟨hregs, hfault, streamInv_iff.2 ?_⟩
    rw [List.length_append, List.length_singleton]
    exact ⟨hcp.trans (Nat.le_succ _), hroom⟩

theorem countDraw_inv (h : c.inv = true) : (countDraw c).inv = true := h

theorem noteStore_inv (a : Nat) (h : c.inv = true) : (noteStore a c).inv = true := h

theorem resetInstance_inv (c : Instance) : (resetInstance c).inv = true := rfl

end

/-- Putting an instance with the invariant in the place of another one. -/
theorem setInstance_inv {s : State} {k : Nat} {c : Instance} (hc : c.inv = true)
    (h : s.inv = true) : (s.setInstance k c).inv = true := by
  obtain ⟨hmem, hinst⟩ := State.inv_iff.1 h
  cases k with
  | zero =>
    refine State.inv_iff.2 ⟨hmem, List.forall_mem_cons.2 ⟨hc, fun d hd => ?_⟩⟩
    exact hinst d (List.mem_cons_of_mem _ hd)
  | succ k =>
    have hstepped : s.inst.inv = true := State.inst_inv h
    refine State.inv_iff.2 ⟨hmem, List.forall_mem_cons.2 ⟨hstepped, fun d hd => ?_⟩⟩
    obtain hd | rfl := List.mem_or_eq_of_mem_set hd
    · exact hinst d (List.mem_cons_of_mem _ hd)
    · exact hc

/-- Changing every instance in a way that keeps its invariant. -/
theorem mapInstances_inv {s : State} {f : Instance → Instance} {m : Memory}
    (hf : ∀ c : Instance, c.inv = true → (f c).inv = true) (hm : Memory.wf m = true)
    (h : s.inv = true) :
    State.inv { s with mem := m, inst := f s.inst, others := s.others.map f } = true := by
  obtain ⟨-, hinst⟩ := State.inv_iff.1 h
  refine State.inv_iff.2 ⟨hm, ?_⟩
  show ∀ c ∈ s.instances.map f, c.inv = true
  exact List.forall_mem_map.2 fun c hc => hf c (hinst c hc)

theorem selectInstance_inv {s t : State} {k : Nat} (h : selectInstance k s = .next t)
    (hs : s.inv = true) : t.inv = true := by
  unfold selectInstance at h
  split at h <;> cases h
  rename_i c hc
  obtain ⟨-, hinst⟩ := State.inv_iff.1 hs
  have hselected : c.inv = true := hinst c (List.mem_cons_of_mem _ (List.mem_of_getElem? hc))
  have hwaiting : (s.setInstance (k + 1) s.inst).inv = true :=
    setInstance_inv (State.inst_inv hs) hs
  exact setInstance_inv (k := 0) hselected hwaiting

theorem hostAct_inv {e : HostEvent} {s t : State} (h : hostAct e s = .next t) (hs : s.inv = true) :
    t.inv = true := by
  obtain ⟨hmem, hinst⟩ := State.inv_iff.1 hs
  cases e with
  | write addr width v =>
    obtain ⟨k, c, c', -, hc, hw, rfl⟩ := hostWrite_cases h
    exact setInstance_inv (writeCmd_inv hw (hinst c (List.mem_of_getElem? hc))) hs
  | read addr width =>
    simp only [hostAct] at h
    split at h <;> cases h
    rename_i hread
    obtain ⟨k, c, c', r, -, hc, hrd, rfl⟩ := hostRead_cases hread
    have hcinv := hinst c (List.mem_of_getElem? hc)
    obtain rfl | rfl := readRegister_cases hrd
    · exact setInstance_inv hcinv hs
    · exact setInstance_inv (countDraw_inv hcinv) hs
  | store a b =>
    cases h
    exact mapInstances_inv (fun c => noteStore_inv a.toNat) (hostStore_wf a b hmem) hs
  | select k => exact selectInstance_inv h hs
  | reset =>
    cases h
    exact setInstance_inv (k := 0) (resetInstance_inv s.inst) hs
  | resetAll =>
    cases h
    exact mapInstances_inv (fun c _ => resetInstance_inv c) hmem hs
  | endStream =>
    cases h
    exact setInstance_inv (k := 0) (c := { s.inst with ended := true }) (State.inst_inv hs) hs

theorem step_inv {s t : State} (h : step s = .next t) (hs : s.inv = true) : t.inv = true := by
  have hinst : s.inst.inv = true := State.inst_inv hs
  rw [step_eq_withInst h]
  exact setInstance_inv (k := 0) (step_inst_inv h hinst) hs

/-! ## The end of a finite stream (R146) -/

/-- An instance with a finite stream and a word left never waits. -/
theorem fetch_ne_idle {s : State} (he : s.inst.ended = true) (hp : s.inst.phase ≠ .faulted)
    (hcp : s.inst.cp.toNat < s.inst.stream.length) : fetch s ≠ .idle := by
  have hwords : pendingWords s.inst ≠ [] := by simpa [pendingWords] using hcp
  obtain ⟨w, ws, hw⟩ := List.exists_cons_of_ne_nil hwords
  unfold fetch
  rw [if_neg hp, hw]
  simp only
  split
  · simp
  split
  · simp
  unfold fetchPayload missingWords
  rw [he]
  split <;> simp

/-- With a word left, a step of a finite stream faults or moves `CP` on. -/
theorem step_progress {s t : State} (hs : s.inst.inv = true) (he : s.inst.ended = true)
    (hp : s.inst.phase ≠ .faulted) (hcp : s.inst.cp.toNat < s.inst.stream.length)
    (h : step s = .next t) :
    t.inst.phase = .faulted ∨ (s.inst.cp.toNat < t.inst.cp.toNat ∧
      t.inst.stream = s.inst.stream ∧ t.inst.ended = s.inst.ended) := by
  obtain ⟨hidle, -⟩ | ⟨f, -, rfl⟩ | ⟨i, hi, hexec⟩ := step_cases h
  · exact absurd hidle (fetch_ne_idle he hp hcp)
  · exact .inl rfl
  · obtain ⟨hp', -⟩ | ⟨-, f, -, rfl⟩ | ⟨-, -, rfl⟩ := exec_cases hexec
    · exact absurd hp' hp
    · exact .inl rfl
    · obtain ⟨-, -, hstream⟩ := inv_iff.1 hs
      obtain ⟨-, rest, hd⟩ := fetch_command hi
      obtain ⟨hnext, -⟩ := cp_add_words hstream hd
      refine .inr ⟨?_, effectOf_stream i s, effectOf_ended i s⟩
      rw [effectOf_cp, hnext, i.words_eq]
      omega

/-- A state at which a finite stream has come to its end. -/
def atEnd (s : State) : Prop := cleanEnd s = true ∨ faultedEnd s = true

theorem atEnd_of_faulted {s : State} (hp : s.inst.phase = .faulted) : atEnd s :=
  .inr (by simp [faultedEnd, hp])

theorem step_atEnd {s : State} (h : atEnd s) : step s = .next s := by
  obtain hclean | hfaulted := h
  · simp only [cleanEnd, Bool.and_eq_true, decide_eq_true_eq] at hclean
    obtain ⟨⟨-, hcp⟩, -⟩ := hclean
    exact step_noWords (by rw [pendingWords, hcp, List.drop_length])
  · exact step_faulted (by simpa [faultedEnd] using hfaulted)

theorem run_succ_of_step {s t u : State} {k : Nat} (h : step s = .next t)
    (hrun : Sys2Proof.core.run k t = .next u) : Sys2Proof.core.run (k + 1) s = .next u := by
  have hcore : Sys2Proof.core.step s = .next t := h
  simp only [Host.Core.run, hcore, hrun]

/-- By induction on the words left: a state that is not at its end steps to a FAULTED one, or to one with
fewer words left. -/
theorem run_reaches_end {s : State} (hs : s.inv = true) (he : s.inst.ended = true) :
    ∃ k t, k ≤ s.inst.stream.length - s.inst.cp.toNat ∧ Sys2Proof.core.run k s = .next t ∧
      atEnd t := by
  induction hn : s.inst.stream.length - s.inst.cp.toNat using Nat.strong_induction_on
    generalizing s with
  | _ n ih =>
    have hinst : s.inst.inv = true := State.inst_inv hs
    obtain ⟨-, -, hstream⟩ := inv_iff.1 hinst
    obtain ⟨hcp, -⟩ := streamInv_iff.1 hstream
    by_cases hp : s.inst.phase = .faulted
    · exact ⟨0, s, Nat.zero_le _, rfl, atEnd_of_faulted hp⟩
    obtain hend | hmore := hcp.eq_or_lt
    · exact ⟨0, s, Nat.zero_le _, rfl, .inl (by simp [cleanEnd, he, hend, hp])⟩
    obtain ⟨t, ht⟩ := step_next s
    obtain hfaulted | ⟨hnext, hsame, hkind⟩ := step_progress hinst he hp hmore ht
    · exact ⟨1, t, by omega, run_succ_of_step ht rfl, atEnd_of_faulted hfaulted⟩
    · have hlen : t.inst.stream.length = s.inst.stream.length := congrArg List.length hsame
      obtain ⟨k, u, hk, hrun, hend⟩ := ih _ (by omega) (step_inv ht hs) (hkind.trans he) rfl
      exact ⟨k + 1, u, by omega, run_succ_of_step ht hrun, hend⟩

/-! ## Selecting an instance (R35) -/

/-- Selecting the `k`-th other instance exchanges it with the stepped one. -/
theorem nextState_selectInstance {s : State} {k : Nat} {c : Instance} (h : s.others[k]? = some c) :
    nextState (selectInstance k s) = some ((s.withInst c).withOthers (s.others.set k s.inst)) := by
  simp only [selectInstance, h]
  rfl

/-- The same where the other instances are those of a list whose `k`-th place was just filled. -/
theorem nextState_selectInstance_set {s : State} {k : Nat} {o : List Instance} (c : Instance)
    (hk : k < o.length) :
    nextState (selectInstance k (s.withOthers (o.set k c))) =
      some ((s.withInst c).withOthers (o.set k s.inst)) := by
  have hc : (s.withOthers (o.set k c)).others[k]? = some c := by
    simp [State.withOthers, List.getElem?_set_self hk]
  rw [nextState_selectInstance hc]
  simp [State.withOthers, State.withInst, List.set_set]

theorem nextState_step {s t : State} (h : step s = .next t) : nextState (step s) = some t := by
  rw [h, nextState]

/-! ## The obligations -/

/-- Settles O45: a step changes the stepped instance only, by a fault or by the effect of a command whose
checks pass, and both keep the instance's invariant. -/
theorem stepKeepsInvariant : Obligations.StepKeepsInvariant :=
  fun _ _ hs h => step_inv h hs

/-- Settles O46, by evaluation. -/
theorem resetMeetsInvariant : Obligations.ResetMeetsInvariant := by
  unfold Obligations.ResetMeetsInvariant
  decide

/-- Settles O47, event by event. -/
theorem hostEventsKeepInvariant : Obligations.HostEventsKeepInvariant :=
  fun _ _ _ hs h => hostAct_inv h hs

/-- Settles O48, by `run_reaches_end` and the step at an end. -/
theorem finiteStreamEnds : Obligations.FiniteStreamEnds := by
  intro s hs he
  obtain ⟨k, t, hk, hrun, hend⟩ := run_reaches_end hs he
  exact ⟨k, t, hk, hrun, hend, step_atEnd hend⟩

/-- Settles O43: both orders lead to the machine with the two next instances in their places, since a step
neither sees nor changes the other instances. -/
theorem instanceStepsCommute : Obligations.InstanceStepsCommute := by
  intro s k hk
  have hc : s.others[k]? = some s.others[k] := List.getElem?_eq_getElem hk
  obtain ⟨t, ht⟩ := step_next s
  obtain ⟨u, hu⟩ := step_next (s.withInst s.others[k])
  have htw : t = s.withInst t.inst := step_eq_withInst ht
  have huw : u = (s.withInst s.others[k]).withInst u.inst := step_eq_withInst hu
  have hselect := nextState_selectInstance hc
  have hselect' : nextState (selectInstance k t) =
      some ((s.withInst s.others[k]).withOthers (s.others.set k t.inst)) := by
    rw [htw]
    exact nextState_selectInstance (s := s.withInst t.inst) hc
  refine ⟨?commute, ?twice⟩
  case commute =>
    have hleft := nextState_step (step_withOthers (s.others.set k t.inst) hu)
    have hmid := nextState_step (step_withOthers (s.others.set k s.inst) hu)
    have hright := nextState_step (step_withOthers (s.others.set k u.inst) ht)
    have hbackLeft := nextState_selectInstance_set (s := u) t.inst hk
    have hbackRight := nextState_selectInstance_set (s := u) s.inst hk
    have hsame : (u.withInst s.inst).withOthers (s.others.set k u.inst) =
        s.withOthers (s.others.set k u.inst) := by rw [huw]; rfl
    rw [nextState_step ht, hselect, Option.bind_some, Option.bind_some, hselect', hmid,
      Option.bind_some, Option.bind_some, hbackRight, hleft, Option.bind_some, Option.bind_some,
      hbackLeft, hsame, hright, htw, huw]
    rfl
  case twice =>
    rw [hselect, Option.bind_some, nextState_selectInstance_set _ hk]
    simp [State.withInst, State.withOthers]

end Sys2Proof.Machine
end

section
/-! SUPPORT. The proofs about 41_ahash.md, 42_fnv1a.md and the draws of 20_memory.md R51: the whole next
state of each command, and the frame they have in common. -/

namespace Sys2Proof.Machine

/-! ## A command on a live hasher of its algorithm -/

/-- Past the refusal, the payload, the phase and the algorithm, the span decides. -/
theorem exec_live {i : Instr} {s : State} (hop : i.op ≠ .init) (hp : s.inst.phase = .active)
    (ha : s.inst.alg = some i.alg) (hwf : i.wellFormed = true)
    (hr : refusedCheck s.params i.op i.alg = none) (hb : boundsCheck s.mem i = none) :
    exec i s = .next (effectOf i s) := by
  have hallowed : phaseAllows s.inst.phase i.op = true := by
    rw [hp]
    exact phaseAllows_active_iff.2 hop
  exact exec_effect (by simp [hp]) (failingCheck_none.2 ⟨hr, hwf, hallowed, .inr ha, hb⟩)

theorem boundsCheck_absorbBytesAh {m : Memory} {ptr len : Word} (h : admitted m ptr len = true) :
    boundsCheck m (.absorbBytesAh ptr len) = none := by
  simp [boundsCheck, spanOf, h]

theorem exec_absorbBytesAh_eq_effect {s : State} {ptr len : Word} (hp : s.inst.phase = .active)
    (ha : s.inst.alg = some .ahash) (hspan : admitted s.mem ptr len = true) :
    exec (.absorbBytesAh ptr len) s = .next (absorbBytesAhEffect ptr len s) :=
  exec_live (by simp [Instr.op]) hp ha rfl rfl (boundsCheck_absorbBytesAh hspan)

theorem exec_finishAh_eq_effect {s : State} (hp : s.inst.phase = .active)
    (ha : s.inst.alg = some .ahash) : exec .finishAh s = .next (finishAhEffect s) :=
  exec_live (by simp [Instr.op]) hp ha rfl rfl rfl

theorem exec_finishFnv_eq_effect {s : State} (hp : s.inst.phase = .active)
    (ha : s.inst.alg = some .fnv1a) : exec .finishFnv s = .next (finishFnvEffect s) :=
  exec_live (by simp [Instr.op]) hp ha rfl rfl rfl

theorem exec_absorbChunkFnv_eq_effect {s : State} {t : EType} {n : Fin 7} {es : List Word}
    (hp : s.inst.phase = .active) (ha : s.inst.alg = some .fnv1a)
    (hwf : (Instr.absorbChunkFnv t n es).wellFormed = true) :
    exec (.absorbChunkFnv t n es) s = .next (absorbChunkFnvEffect t n es s) :=
  exec_live (by simp [Instr.op]) hp ha hwf rfl rfl

theorem exec_absorbChunkAh_eq_effect {s : State} {t : EType} {n : Fin 7} {es : List Word}
    (hp : s.inst.phase = .active) (ha : s.inst.alg = some .ahash)
    (hwf : (Instr.absorbChunkAh t n es).wellFormed = true) (hmode : s.params.chunkMode = .pairwise) :
    exec (.absorbChunkAh t n es) s = .next (absorbChunkAhEffect t n es s) :=
  exec_live (by simp [Instr.op]) hp ha hwf (by simp [refusedCheck, hmode]) rfl

/-! ## The accumulators as values -/

theorem ahashRegs_eq {c : Instance} {b p k0 k1 : Word} (hb : c.buffer = some b)
    (hp : c.pad = some p) (h0 : c.ek0 = some k0) (h1 : c.ek1 = some k1) :
    ahashRegs c = ⟨b, p, k0, k1⟩ := by
  simp [ahashRegs, readReg, hb, hp, h0, h1]

theorem fnvReg_eq {c : Instance} {v : Word} (h : c.value = some v) : fnvReg c = v := by
  simp [fnvReg, readReg, h]

theorem spanSpoiled_eq_false {c : Instance} (h : c.cp.toNat ∉ c.spoiled) : spanSpoiled c = false := by
  simpa [spanSpoiled] using h

theorem spanSpoiled_eq_true {c : Instance} (h : c.cp.toNat ∈ c.spoiled) : spanSpoiled c = true := by
  simpa [spanSpoiled] using h

/-! ## AH.ABSORB_BYTES (R102) -/

/-- The lanes of a span in the order they are absorbed: for more than 16 bytes the last 16 bytes and then
the blocks from the start, else the one lane of the size class. -/
def spanLanes (m : Memory) (p n : Nat) : List Lane :=
  if n > 16 then
    readLane16 m (p + n - 16) :: (List.range ((n - 1) / 16)).map (fun j => readLane16 m (p + 16 * j))
  else if n > 8 then [readPair8 m p n]
  else [readSmall m p n]

theorem ahashBytes_eq_foldl (m : Memory) (ptr len : Word) (h : AHashRegs) :
    ahashBytes m ptr len h =
      (spanLanes m ptr.toNat len.toNat).foldl (fun h l => largeUpdate l h) (premix len h) := by
  have hscan := forwardScan_eq_foldl m ptr.toNat len.toNat len.toNat 0
  simp only [Nat.mul_zero, Nat.sub_zero, Nat.zero_add] at hscan
  unfold ahashBytes spanLanes
  simp only
  split_ifs
  · rw [hscan _ (by omega), List.foldl_cons]
  · rfl
  · rfl

/-! ## The chunks (R103, R112) -/

theorem ext64_zero (mode : Config.SignedExt) (t : EType) : ext64 mode t 0#64 = 0#64 := by
  cases mode <;> cases t <;> decide

theorem widened_getD (p : Config.Params) (t : EType) (es : List Word) (k : Nat) :
    (widened p t es).getD k 0#64 = ext64 p.signedExt t (es.getD k 0#64) := by
  rw [← List.getD_map (f := ext64 p.signedExt t), ext64_zero, widened]

theorem widened_length (p : Config.Params) (t : EType) (es : List Word) :
    (widened p t es).length = es.length := List.length_map _

theorem ahashChunk_of_length_one {vs : List Word} (hlen : vs.length = 1) (h : AHashRegs) :
    ahashChunk vs h = wordUpdate (vs.getD 0 0#64) h := by
  obtain ⟨v, rfl⟩ := List.length_eq_one_iff.1 hlen
  rfl

theorem ahashChunk_of_length_ne_one {vs : List Word} (hlen : vs.length ≠ 1) (h : AHashRegs) :
    ahashChunk vs h = chunkPairs vs h := by
  unfold ahashChunk
  split
  · simp at hlen
  · rfl

/-- A list is its elements by index. -/
theorem eq_map_range_getD (vs : List Word) :
    vs = (List.range vs.length).map fun i => vs.getD i 0#64 := by
  apply List.ext_getElem
  · simp
  · intro i h1 h2
    simp [List.getElem?_eq_getElem h1]

/-- The mixing of R103 on the `2^NLOG` elements of a chunk. -/
theorem ahashChunk_widened {p : Config.Params} {t : EType} {n : Fin 7} {es : List Word}
    (hlen : es.length = 2 ^ n.val) (h : AHashRegs) :
    ahashChunk (widened p t es) h =
      if n.val = 0 then wordUpdate (ext64 p.signedExt t (es.getD 0 0#64)) h
      else (List.range (2 ^ n.val / 2)).foldl
        (fun h j => largeUpdate
          ⟨ext64 p.signedExt t (es.getD (2 * j) 0#64), ext64 p.signedExt t (es.getD (2 * j + 1) 0#64)⟩ h)
        h := by
  have hwide : (widened p t es).length = 2 ^ n.val := (widened_length p t es).trans hlen
  split_ifs with hn
  · rw [ahashChunk_of_length_one (by simp [hwide, hn]), widened_getD]
  · have heven : 2 ^ n.val = 2 * (2 ^ n.val / 2) :=
      (Nat.mul_div_cancel' (dvd_pow_self 2 hn)).symm
    rw [ahashChunk_of_length_ne_one (by omega), chunkPairs_eq_foldl _ _ (hwide.trans heven)]
    simp only [widened_getD]

/-- The loop of R112 on the elements of a chunk, by index. -/
theorem fnvChunk_widened (p : Config.Params) (t : EType) (es : List Word) (v : Word) :
    fnvChunk (widened p t es) v = (List.range es.length).foldl
      (fun u i => fnvStep u (ext64 p.signedExt t (es.getD i 0#64))) v := by
  rw [fnvChunk_eq_foldl, eq_map_range_getD (widened p t es), List.foldl_map, widened_length]
  simp only [widened_getD]

theorem ext64_byte (mode : Config.SignedExt) (b : Byte) :
    ext64 mode .u8 (b.setWidth 64) = b.setWidth 64 := by
  have hlow : (b.setWidth 64).setWidth 8 = b := by
    rw [BitVec.setWidth_setWidth_of_le _ (by decide), BitVec.setWidth_eq]
  show ((b.setWidth 64).setWidth 8).setWidth 64 = b.setWidth 64
  rw [hlow]

/-! ## FINISH (R104, R113) -/

/-- The rotate amount is the low six bits of `BUFFER`. -/
theorem ahashDigest_eq (h : AHashRegs) :
    ahashDigest h = (foldedMultiply h.buffer h.pad).rotateLeft (h.buffer.toNat % 64) := by
  have hlow : (h.buffer &&& 63#64).toNat = h.buffer.toNat % 64 :=
    Nat.and_two_pow_sub_one_eq_mod h.buffer.toNat 6
  rw [ahashDigest, rotl64_eq_rotateLeft, hlow]

/-! ## The obligations about INIT -/

/-- Settles O27: no check stops INIT, and its effect is the update it says. -/
theorem initAhCompletes : Obligations.InitAhCompletes :=
  fun _ _ _ _ _ hphase => exec_init_eq_effect rfl hphase

/-- Settles O28: no check stops INIT, and its effect does not look at the seed. -/
theorem initFnvCompletes : Obligations.InitFnvCompletes :=
  fun _ _ _ _ _ hphase => exec_init_eq_effect rfl hphase

/-! ## The obligations about ABSORB_BYTES -/

/-- Settles O29, by the lanes of the span. -/
theorem absorbBytesAhCompletes : Obligations.AbsorbBytesAhCompletes := by
  intro s ptr len b p k0 k1 hp ha hb hpad h0 h1 hclean hspan
  have hspoiled := spanSpoiled_eq_false hclean
  rw [exec_absorbBytesAh_eq_effect hp ha hspan, absorbBytesAhEffect, State.mapInst,
    settleSpan_of_not_spoiled hspoiled, absorbed_of_not_spoiled hspoiled,
    ahashRegs_eq hb hpad h0 h1, ahashBytes_eq_foldl]
  rfl

/-- Settles O30, by the byte loop as a fold. -/
theorem absorbBytesFnvCompletes : Obligations.AbsorbBytesFnvCompletes := by
  intro s ptr len v hp ha hv hclean hspan
  have hspoiled := spanSpoiled_eq_false hclean
  rw [exec_absorbBytesFnv_eq_effect hp ha hspan, absorbBytesFnvEffect, State.mapInst,
    settleSpan_of_not_spoiled hspoiled, absorbed_of_not_spoiled hspoiled, fnvReg_eq hv,
    fnvBytes_eq_foldl]
  rfl

/-- Settles O35: at a spoiled command the draw stands for the computed value, and its mark is settled. -/
theorem spoiledSpanLeavesDraw : Obligations.SpoiledSpanLeavesDraw := by
  intro s ptr len hp hmark hspan
  have hspoiled := spanSpoiled_eq_true hmark
  refine ⟨fun ha => ?ahash, fun ha => ?fnv⟩
  case ahash =>
    rw [exec_absorbBytesAh_eq_effect hp ha hspan, absorbBytesAhEffect, State.mapInst, settleSpan,
      if_pos hspoiled, absorbed, if_pos hspoiled]
    rfl
  case fnv =>
    rw [exec_absorbBytesFnv_eq_effect hp ha hspan, absorbBytesFnvEffect, State.mapInst, settleSpan,
      if_pos hspoiled, absorbed, if_pos hspoiled]
    rfl

/-! ## The obligations about ABSORB_CHUNK -/

/-- Settles O31, by the mixing of the chunk's elements. -/
theorem absorbChunkAhCompletes : Obligations.AbsorbChunkAhCompletes := by
  intro s t n es b p k0 k1 hwf hmode hp ha hb hpad h0 h1
  obtain ⟨hlen, -⟩ := chunkWellFormed_iff.1 hwf
  rw [exec_absorbChunkAh_eq_effect hp ha hwf hmode, absorbChunkAhEffect, State.mapInst,
    ahashRegs_eq hb hpad h0 h1, ahashChunk_widened hlen, apply_ite AHashRegs.buffer]
  rfl

/-- Settles O32, by the element loop as a fold. -/
theorem absorbChunkFnvCompletes : Obligations.AbsorbChunkFnvCompletes := by
  intro s t n es v hwf hp ha hv
  obtain ⟨hlen, -⟩ := chunkWellFormed_iff.1 hwf
  rw [exec_absorbChunkFnv_eq_effect hp ha hwf, absorbChunkFnvEffect, State.mapInst, fnvReg_eq hv,
    fnvChunk_widened, hlen]
  rfl

/-- Settles O38: a byte is its own extension, so that both loops take the same steps. -/
theorem fnvByteChunkEqualsBytes : Obligations.FnvByteChunkEqualsBytes := by
  intro s n es ptr len v hwf hp ha hv hclean hspan hbytes
  refine ⟨_, _, exec_absorbChunkFnv_eq_effect hp ha hwf, exec_absorbBytesFnv_eq_effect hp ha hspan, ?_⟩
  rw [absorbChunkFnvEffect_value, absorbBytesFnvEffect_value,
    absorbed_of_not_spoiled (spanSpoiled_eq_false hclean), fnvChunk_eq_foldl, fnvBytes_eq_foldl,
    hbytes, widened, List.map_map, List.foldl_map]
  simp only [Function.comp_apply, ext64_byte, memByte64]

/-! ## The obligations about FINISH -/

/-- Settles O33, by the digest's formula. -/
theorem finishAhCompletes : Obligations.FinishAhCompletes := by
  intro s b p hp ha hb hpad htaint
  have hbuffer : (ahashRegs s.inst).buffer = b := by simp [ahashRegs, readReg, hb]
  have hpadding : (ahashRegs s.inst).pad = p := by simp [ahashRegs, readReg, hpad]
  rw [exec_finishAh_eq_effect hp ha, finishAhEffect, State.mapInst,
    settleHasher_of_untainted htaint, digested_of_untainted htaint, ahashDigest_eq, hbuffer, hpadding]
  rfl

/-- Settles O34. -/
theorem finishFnvCompletes : Obligations.FinishFnvCompletes := by
  intro s v hp ha hv htaint
  rw [exec_finishFnv_eq_effect hp ha, finishFnvEffect, State.mapInst,
    settleHasher_of_untainted htaint, digested_of_untainted htaint, fnvReg_eq hv]
  rfl

/-- Settles O36: for a tainted hasher the draw stands for the computed digest, and the taint is settled. -/
theorem taintedHasherDigestIsDraw : Obligations.TaintedHasherDigestIsDraw := by
  intro s hp htaint
  refine ⟨fun ha => ?ahash, fun ha => ?fnv⟩
  case ahash =>
    rw [exec_finishAh_eq_effect hp ha, finishAhEffect, State.mapInst, settleHasher, if_pos htaint,
      digested, if_pos htaint]
    rfl
  case fnv =>
    rw [exec_finishFnv_eq_effect hp ha, finishFnvEffect, State.mapInst, settleHasher, if_pos htaint,
      digested, if_pos htaint]
    rfl

/-! ## The obligation about hash.bytes -/

/-- The three commands of `hash.bytes` take 5, 3 and 1 words. -/
theorem cp_add_hashBytes (cp : Word) : cp + 5#64 + 3#64 + 1#64 = cp + 9#64 := by
  rw [BitVec.add_assoc, BitVec.add_assoc]
  rfl

/-- A run of three commands that each answer a next state. -/
theorem execAll_three {i j k : Instr} {s t u v : State} (hi : exec i s = .next t)
    (hj : exec j t = .next u) (hk : exec k u = .next v) : execAll [i, j, k] s = .next v := by
  rw [execAll_cons_of_next hi, execAll_cons_of_next hj, execAll_cons_of_next hk, execAll]

/-- The effect of `init.ah` without operands (R74): AHash under the default seed. -/
def seededAh (s : State) : State :=
  initAhEffect s.params.defaultSeed.w0 s.params.defaultSeed.w1 s.params.defaultSeed.w2
    s.params.defaultSeed.w3 s

section
variable {s : State} {ptr len : Word} (hphase : s.inst.phase = .empty ∨ s.inst.phase = .finished)
  (hspan : admitted s.mem ptr len = true)
include hphase hspan

theorem execAll_hashBytesFnv : execAll (pseudoHashBytes s.params .fnv1a ptr len) s =
    .next (finishFnvEffect (absorbBytesFnvEffect ptr len (initFnvEffect s))) := by
  have hinit : exec (initWith .fnv1a s.params.defaultSeed) s = .next (initFnvEffect s) :=
    exec_init_eq_effect rfl hphase
  exact execAll_three hinit (exec_absorbBytesFnv_eq_effect rfl rfl hspan)
    (exec_finishFnv_eq_effect (by simp) (by simp))

theorem execAll_hashBytesAh : execAll (pseudoHashBytes s.params .ahash ptr len) s =
    .next (finishAhEffect (absorbBytesAhEffect ptr len (seededAh s))) := by
  have hinit : exec (initWith .ahash s.params.defaultSeed) s = .next (seededAh s) :=
    exec_init_eq_effect rfl hphase
  exact execAll_three hinit (exec_absorbBytesAh_eq_effect rfl rfl hspan)
    (exec_finishAh_eq_effect (by simp [seededAh]) (by simp [seededAh]))

end

/-- Large updates and the pre-mix keep the keys. -/
theorem foldl_largeUpdate_keys (ls : List Lane) (h : AHashRegs) :
    ls.foldl (fun h l => largeUpdate l h) h =
      { h with buffer := (ls.foldl (fun h l => largeUpdate l h) h).buffer } := by
  induction ls generalizing h with
  | nil => rfl
  | cons l ls ih =>
    rw [List.foldl_cons, ih]
    rfl

theorem ahashBytes_keys (m : Memory) (ptr len : Word) (h : AHashRegs) :
    ahashBytes m ptr len h = { h with buffer := (ahashBytes m ptr len h).buffer } := by
  rw [ahashBytes_eq_foldl, foldl_largeUpdate_keys]
  rfl

/-- What a live, unspoiled AHash hasher holds after an ABSORB_BYTES. -/
theorem ahashRegs_absorbBytesAhEffect {s : State} {ptr len b p k0 k1 : Word}
    (hclean : spanSpoiled s.inst = false) (hb : s.inst.buffer = some b) (hp : s.inst.pad = some p)
    (h0 : s.inst.ek0 = some k0) (h1 : s.inst.ek1 = some k1) :
    ahashRegs (absorbBytesAhEffect ptr len s).inst = ahashBytes s.mem ptr len ⟨b, p, k0, k1⟩ := by
  rw [ahashBytes_keys, ← ahashRegs_eq hb hp h0 h1]
  simp [ahashRegs, readReg, absorbed_of_not_spoiled hclean, hb, hp, h0, h1]

/-- Settles O39: INIT leaves a hasher that is neither spoiled nor tainted, so that ABSORB_BYTES and FINISH
compute. -/
theorem hashBytesGivesDigest : Obligations.HashBytesGivesDigest := by
  intro s ptr len hphase hspoiled hspan
  refine ⟨⟨_, execAll_hashBytesFnv hphase hspan, finishFnvEffect_phase _, ?fnvCp, ?fnvAlg, ?fnv⟩,
    ⟨_, execAll_hashBytesAh hphase hspan, finishAhEffect_phase _, ?ahashCp, ?ahashAlg, ?ahash⟩⟩
  case fnvCp | ahashCp => simpa [seededAh] using cp_add_hashBytes s.inst.cp
  case fnvAlg | ahashAlg => simp [seededAh]
  case fnv =>
    have hinit : FnvHolds (initFnvEffect s) Config.offsetBasis := ⟨rfl, rfl, rfl, hspoiled⟩
    have hclean := hinit.spanSpoiled_eq_false
    have htaint : (absorbBytesFnvEffect ptr len (initFnvEffect s)).inst.tainted = false := by
      simp [settleSpan_of_not_spoiled hclean]
    rw [finishFnvEffect_digest, digested_of_untainted htaint, (hinit.absorb ptr len).fnvReg_eq,
      initFnvEffect_mem, ← fnvBytes_eq_foldl_spanBytes, fnvBytes_eq_foldl]
    rfl
  case ahash =>
    have hclean : spanSpoiled (seededAh s).inst = false := by simp [seededAh, spanSpoiled, hspoiled]
    have htaint : (absorbBytesAhEffect ptr len (seededAh s)).inst.tainted = false := by
      rw [absorbBytesAhEffect_tainted, settleSpan_of_not_spoiled hclean]
      rfl
    rw [finishAhEffect_digest, digested_of_untainted htaint,
      ahashRegs_absorbBytesAhEffect hclean rfl rfl rfl rfl]
    rfl

/-! ## The frame of the commands -/

section
variable (i : Instr) (s : State)

theorem effectOf_base : (effectOf i s).inst.base = s.inst.base := by
  cases i <;> simp [effectOf]

variable {i}

theorem effectOf_alg (h : i.op ≠ .init) : (effectOf i s).inst.alg = s.inst.alg := by
  cases i <;> simp_all [effectOf, Instr.op]

theorem effectOf_digest (h : i.op ≠ .init) (h' : i.op ≠ .finish) :
    (effectOf i s).inst.digest = s.inst.digest := by
  cases i <;> simp_all [effectOf, Instr.op]

theorem effectOf_keys (h : i.op ≠ .init) (h' : i ≠ .finishAh) :
    (effectOf i s).inst.pad = s.inst.pad ∧ (effectOf i s).inst.ek0 = s.inst.ek0 ∧
      (effectOf i s).inst.ek1 = s.inst.ek1 := by
  cases i <;> simp_all [effectOf, Instr.op]

theorem effectOf_buffer (h : i.op ≠ .init) (h' : i.alg = .fnv1a) :
    (effectOf i s).inst.buffer = s.inst.buffer := by
  cases i <;> simp_all [effectOf, Instr.op, Instr.alg]

theorem effectOf_value (h : i.op ≠ .init) (h' : i.alg = .ahash) :
    (effectOf i s).inst.value = s.inst.value := by
  cases i <;> simp_all [effectOf, Instr.op, Instr.alg]

end

/-- Settles O41: nothing in FAULTED, three registers by a fault, and for an effect register by
register. -/
theorem registersWrittenByCommands : Obligations.RegistersWrittenByCommands := by
  intro i s t h
  obtain ⟨hp, rfl⟩ | ⟨-, f, -, rfl⟩ | ⟨hp, -, rfl⟩ := exec_cases h
  case inl => simp [hp]
  case inr.inl => simp
  case inr.inr =>
    have hlive := effectOf_phase_ne_faulted i hp
    refine ⟨effectOf_mem i s, effectOf_params i s, effectOf_others i s, effectOf_base i s,
      effectOf_stream i s, effectOf_ended i s,
      fun _ => ⟨effectOf_fault i s, effectOf_faultCp i s, effectOf_cp i s⟩,
      fun hfaulted => absurd hfaulted hlive, effectOf_alg s,
      fun hinit hfinish => ⟨effectOf_digest s hinit hfinish, .inl ?_⟩, effectOf_keys s,
      effectOf_buffer s, effectOf_value s⟩
    rw [effectOf_phase, if_neg hinit, if_neg hfinish]

end Sys2Proof.Machine
end

section
/-! SUPPORT. The proof about 70_reset_and_hazards.md R144: admission, the absorbed bytes and with them a
whole step look at data memory in the span of the command only. -/

namespace Sys2Proof.Machine

/-! ## Reading a span (R83, R86) -/

section
variable {m m' : Memory} {p n : Nat} (h : ∀ k < n, memByte m' (p + k) = memByte m (p + k))
include h

theorem memRead_span_congr {d w : Nat} (hw : d + w ≤ n) :
    memRead m' (p + d) w = memRead m (p + d) w :=
  memRead_congr fun k hk => by rw [Nat.add_assoc, h (d + k) (by omega)]

theorem readLane16_span_congr {d : Nat} (hd : d + 16 ≤ n) :
    readLane16 m' (p + d) = readLane16 m (p + d) := by
  rw [readLane16, readLane16, Nat.add_assoc, memRead_span_congr h (by omega),
    memRead_span_congr h (by omega)]

theorem readPair8_span_congr (hn : 8 < n) : readPair8 m' p n = readPair8 m p n := by
  have hfirst : memRead m' p 8 = memRead m p 8 := memRead_span_congr h (d := 0) (by omega)
  rw [readPair8_eq m' p hn.le, readPair8_eq m p hn.le, hfirst, memRead_span_congr h (by omega)]

/-- Every lane lies within the span. -/
theorem spanLanes_congr : spanLanes m' p n = spanLanes m p n := by
  unfold spanLanes
  split_ifs with h16 h8
  · have hblocks : ∀ j ∈ List.range ((n - 1) / 16),
        readLane16 m' (p + 16 * j) = readLane16 m (p + 16 * j) := fun j hj => by
      rw [List.mem_range] at hj
      exact readLane16_span_congr h (by omega)
    rw [Nat.add_sub_assoc h16.le, readLane16_span_congr h (by omega), List.map_congr_left hblocks]
  · rw [readPair8_span_congr h h8]
  · rw [readSmall_congr h]

end

/-! ## Two memories that agree on a span -/

/-- The two memories hold the same in the span. -/
def AgreeOn (m m' : Memory) (ptr len : Word) : Prop :=
  ∀ k < len.toNat, Memory.lookup m (ptr.toNat + k) = Memory.lookup m' (ptr.toNat + k)

section
variable {m m' : Memory} {ptr len : Word} (h : AgreeOn m m' ptr len)
include h

theorem AgreeOn.memByte_eq : ∀ k < len.toNat,
    memByte m (ptr.toNat + k) = memByte m' (ptr.toNat + k) := by
  intro k hk
  rw [memByte, memByte, h k hk]

theorem AgreeOn.admitted_eq (hm : Memory.wf m = true) (hm' : Memory.wf m' = true) :
    admitted m ptr len = admitted m' ptr len := by
  rw [Bool.eq_iff_iff, admitted_spec hm, admitted_spec hm']
  refine or_congr_right (and_congr_right fun _ => forall₂_congr fun k hk => ?_)
  rw [h k hk]

theorem AgreeOn.fnvBytes_eq (v : Word) :
    fnvBytes m ptr.toNat len.toNat v = fnvBytes m' ptr.toNat len.toNat v := by
  have hbytes : spanBytes m ptr len = spanBytes m' ptr len :=
    List.map_congr_left fun k hk => h.memByte_eq k (List.mem_range.1 hk)
  rw [fnvBytes_eq_foldl_spanBytes, fnvBytes_eq_foldl_spanBytes, hbytes]

theorem AgreeOn.ahashBytes_eq (r : AHashRegs) : ahashBytes m ptr len r = ahashBytes m' ptr len r := by
  rw [ahashBytes_eq_foldl, ahashBytes_eq_foldl, spanLanes_congr h.memByte_eq]

end

/-! ## A step over another data memory -/

/-- The machine over another data memory. -/
def State.withMem (m : Memory) (s : State) : State := { s with mem := m }

section
variable {i : Instr} {s t : State} {m : Memory}
  (h : ∀ ptr len, spanOf i = some (ptr, len) → AgreeOn m s.mem ptr len)
include h

theorem effectOf_withMem : effectOf i (s.withMem m) = (effectOf i s).withMem m := by
  cases i with
  | absorbBytesFnv ptr len =>
    simp only [effectOf, absorbBytesFnvEffect, State.mapInst, State.withMem,
      (h ptr len rfl).fnvBytes_eq]
  | absorbBytesAh ptr len =>
    simp only [effectOf, absorbBytesAhEffect, State.mapInst, State.withMem,
      (h ptr len rfl).ahashBytes_eq]
  | _ => rfl

theorem exec_withMem (hm : Memory.wf m = true) (hs : Memory.wf s.mem = true)
    (he : exec i s = .next t) : exec i (s.withMem m) = .next (t.withMem m) := by
  have hchecks : failingCheck i (s.withMem m) = failingCheck i s :=
    failingCheck_congr rfl rfl rfl fun ptr len hspan => (h ptr len hspan).admitted_eq hm hs
  obtain ⟨hp, rfl⟩ | ⟨hp, f, hf, rfl⟩ | ⟨hp, hf, rfl⟩ := exec_cases he
  · exact exec_faulted i hp
  · exact exec_fault hp (hchecks.trans hf)
  · rw [← effectOf_withMem h]
    exact exec_effect hp (hchecks.trans hf)

end

theorem fetch_withMem (m : Memory) (s : State) : fetch (s.withMem m) = fetch s := rfl

/-! ## The obligation -/

/-- Settles O44: the fetch sees no data memory, and a whole command sees it in its span only. -/
theorem stepDependsOnSpanBytesOnly : Obligations.StepDependsOnSpanBytesOnly := by
  intro s t m hs hm hagree h
  show step (s.withMem m) = .next (t.withMem m)
  unfold step
  rw [fetch_withMem]
  obtain ⟨hf, rfl⟩ | ⟨f, hf, rfl⟩ | ⟨i, hf, he⟩ := step_cases h <;> rw [hf]
  · rfl
  · obtain ⟨-, rest, hd⟩ := fetch_command hf
    exact exec_withMem (fun ptr len hspan => hagree i rest ptr len hd hspan) hm hs he

end Sys2Proof.Machine
end

section
/-! SUPPORT. The proofs about 10_state.md, section 6, and about the host's stores (20_memory.md R51): every
access to the stepped instance's register block, what a read can tell, and the marks of a store. -/

namespace Sys2Proof.Machine

/-! ## Accesses to the register block of the stepped instance (R31) -/

theorem registerAt_cmd : registerAt 0x00 64 = .ok .cmd := by decide

theorem registerAt_status : registerAt 0x08 64 = .ok .status := by decide

theorem registerAt_faultcp : registerAt 0x10 64 = .ok .faultcp := by decide

theorem registerAt_digestr : registerAt 0x18 64 = .ok .digestr := by decide

theorem registerAt_cpr : registerAt 0x20 64 = .ok .cpr := by decide

section
variable {s : State} {off width : Nat}

/-- A read into the stepped instance's block, by the register there. -/
theorem hostRead_block (h : s.inst.base.toNat + blockBytes ≤ 2 ^ 64) (ho : off < blockBytes)
    {r : HostReg} (hr : registerAt off width = .ok r) {x : Word} {c : Instance}
    (hread : readRegister r s.inst = .ok (x, c)) :
    hostRead (s.inst.base + BitVec.ofNat 64 off) width s = .next (x, s.withInst c) := by
  obtain ⟨hoff, hroute⟩ := routeAccess_block h ho
  have hinst : s.instances[0]? = some s.inst := rfl
  simp only [hostRead, hroute, hinst, hoff, hr, hread]
  rfl

/-- A read that its register refuses. -/
theorem hostRead_block_refused (h : s.inst.base.toNat + blockBytes ≤ 2 ^ 64) (ho : off < blockBytes)
    {r : HostReg} (hr : registerAt off width = .ok r) {e : Refusal}
    (hread : readRegister r s.inst = .error e) :
    hostRead (s.inst.base + BitVec.ofNat 64 off) width s = .refused e := by
  obtain ⟨hoff, hroute⟩ := routeAccess_block h ho
  have hinst : s.instances[0]? = some s.inst := rfl
  simp only [hostRead, hroute, hinst, hoff, hr, hread]

/-- Where the block has no register, a read and a write are refused alike. -/
theorem hostAccess_noRegister (h : s.inst.base.toNat + blockBytes ≤ 2 ^ 64) (ho : off < blockBytes)
    {e : Refusal} (hr : registerAt off width = .error e) (v : Word) :
    (∃ r, hostRead (s.inst.base + BitVec.ofNat 64 off) width s = .refused r) ∧
      (∃ r, hostWrite (s.inst.base + BitVec.ofNat 64 off) width v s = .refused r) := by
  obtain ⟨hoff, hroute⟩ := routeAccess_block h ho
  have hinst : s.instances[0]? = some s.inst := rfl
  exact ⟨⟨e, by simp only [hostRead, hroute, hinst, hoff, hr]⟩,
    ⟨e, by simp only [hostWrite, hroute, hinst, hoff, hr]⟩⟩

/-- Another width, a misaligned offset and an offset from 0x28 on have no register (R33(b)). -/
theorem registerAt_eq_error (h : width ≠ 64 ∨ off % 8 ≠ 0 ∨ 0x28 ≤ off) :
    ∃ e, registerAt off width = .error e := by
  unfold registerAt
  split_ifs with hw halign
  · exact ⟨_, rfl⟩
  · exact ⟨_, rfl⟩
  · split
    case h_6 => exact ⟨_, rfl⟩
    all_goals omega

theorem hostAccess_refused (hb : s.inst.base.toNat + blockBytes ≤ 2 ^ 64) (ho : off < blockBytes)
    (h : width ≠ 64 ∨ off % 8 ≠ 0 ∨ 0x28 ≤ off) (v : Word) :
    (∃ r, hostRead (s.inst.base + BitVec.ofNat 64 off) width s = .refused r) ∧
      (∃ r, hostWrite (s.inst.base + BitVec.ofNat 64 off) width v s = .refused r) := by
  obtain ⟨e, he⟩ := registerAt_eq_error h
  exact hostAccess_noRegister hb ho he v

theorem hostRead_cmd_refused (h : s.inst.base.toNat + blockBytes ≤ 2 ^ 64) :
    ∃ r, hostRead s.inst.base 64 s = .refused r := by
  exact ⟨_, by simpa using hostRead_block_refused (off := 0) h (by decide) registerAt_cmd rfl⟩

/-- The registers other than `CMD` are read-only. -/
theorem hostWrite_readOnly (h : s.inst.base.toNat + blockBytes ≤ 2 ^ 64) (v : Word) :
    ∀ off ∈ [0x08, 0x10, 0x18, 0x20],
      ∃ r, hostWrite (s.inst.base + BitVec.ofNat 64 off) 64 v s = .refused r := by
  have refused {off : Nat} {r : HostReg} (ho : off < blockBytes) (hr : registerAt off 64 = .ok r)
      (hcmd : r ≠ .cmd) : ∃ x, hostWrite (s.inst.base + BitVec.ofNat 64 off) 64 v s = .refused x := by
    refine ⟨.readOnlyRegister, hostWrite_refused h ho hr ?_⟩
    cases r with
    | cmd => exact absurd rfl hcmd
    | status | faultcp | digestr | cpr => rfl
  simp only [List.forall_mem_cons, List.not_mem_nil, false_imp_iff, implies_true, and_true]
  exact ⟨refused (by decide) registerAt_status (by decide),
    refused (by decide) registerAt_faultcp (by decide),
    refused (by decide) registerAt_digestr (by decide),
    refused (by decide) registerAt_cpr (by decide)⟩

end

/-! ## What a read of DIGESTR gives (R33(a)) -/

theorem readDigest_finished {c : Instance} {d : Word} (hp : c.phase = .finished)
    (hd : c.digest = some d) : readDigest c = (d, c) := by
  simp [readDigest, hp, hd]

theorem readDigest_draw {c : Instance} (hp : c.phase ≠ .finished) :
    readDigest c = (nextDraw c, countDraw c) := by
  unfold readDigest
  split
  · rename_i hfinished _
    exact absurd hfinished hp
  · rfl

theorem readDigest_fst (c : Instance) :
    (readDigest c).1 = if c.phase = .finished then c.digest.getD (nextDraw c) else nextDraw c := by
  split_ifs with hp
  · cases hd : c.digest with
    | some d => rw [readDigest_finished hp hd, Option.getD_some]
    | none => simp [readDigest, hd]
  · rw [readDigest_draw hp]

/-! ## What a read can tell (R33(c)) -/

/-- What the host learns of a read: the word, or the reason why there is none. -/
def readValue (o : Host.Outcome (Word × State) Fault Refusal) : Except (Option Refusal) Word :=
  match o with
  | .next (x, _) => .ok x
  | .fault _ => .error none
  | .refused r => .error (some r)

/-- What the host learns of a read that reaches an instance. -/
def instanceValue (addr : Word) (width : Nat) (c : Instance) : Except (Option Refusal) Word :=
  ((registerAt (addr.toNat - c.base.toNat) width).bind fun r =>
    (readRegister r c).map Prod.fst).mapError some

theorem readValue_hostRead (addr : Word) (width : Nat) (s : State) :
    readValue (hostRead addr width s) =
      ((routeAccess addr s).bind (s.instances[·]?)).elim (.error (some .noSuchRegister))
        (instanceValue addr width) := by
  unfold hostRead
  cases routeAccess addr s with
  | none => rfl
  | some k =>
    simp only [Option.bind_some]
    cases s.instances[k]? with
    | none => rfl
    | some c =>
      simp only [instanceValue, Option.elim_some]
      cases registerAt (addr.toNat - c.base.toNat) width with
      | error r => rfl
      | ok r =>
        simp only [Except.bind]
        cases readRegister r c <;> rfl

/-- What a read goes by: the block's place, `STATUS`, `FAULTCP`, what `DIGESTR` gives, and `CP`. -/
structure LooksAlike (c c' : Instance) : Prop where
  base : c.base = c'.base
  status : statusWord c = statusWord c'
  faultcp : faultCpWord c = faultCpWord c'
  digestr : (readDigest c).1 = (readDigest c').1
  cpr : c.cp = c'.cp

theorem LooksAlike.register_eq {c c' : Instance} (h : LooksAlike c c') (r : HostReg) :
    (readRegister r c).map Prod.fst = (readRegister r c').map Prod.fst := by
  cases r with
  | cmd => rfl
  | status => exact congrArg Except.ok h.status
  | faultcp => exact congrArg Except.ok h.faultcp
  | digestr => exact congrArg Except.ok h.digestr
  | cpr => exact congrArg Except.ok h.cpr

theorem LooksAlike.instanceValue_eq {c c' : Instance} (h : LooksAlike c c') (addr : Word)
    (width : Nat) : instanceValue addr width c = instanceValue addr width c' := by
  simp only [instanceValue, h.base, h.register_eq]

/-- A stepped instance in whose place another one would look alike cannot be told from it. -/
theorem readValue_hostRead_withInst {s : State} {c : Instance} (h : LooksAlike c s.inst)
    (addr : Word) (width : Nat) :
    readValue (hostRead addr width (s.withInst c)) = readValue (hostRead addr width s) := by
  have hblock : inBlock addr c = inBlock addr s.inst := by simp only [inBlock, h.base]
  have hroute : routeAccess addr (s.withInst c) = routeAccess addr s := by
    simp only [routeAccess, State.instances, State.withInst, List.findIdx?_cons, hblock]
  rw [readValue_hostRead, readValue_hostRead, hroute]
  cases routeAccess addr s with
  | none => rfl
  | some k =>
    cases k with
    | zero => exact h.instanceValue_eq addr width
    | succ k => rfl

/-- The accumulators, and `ALG` beyond its copy in `STATUS`, are behind no register of the block. -/
theorem looksAlike_accumulators {c : Instance} (b p k0 k1 u : Option Word) {a : Option Alg}
    (h : statusWord { c with alg := a } = statusWord c) :
    LooksAlike { c with buffer := b, pad := p, ek0 := k0, ek1 := k1, value := u, alg := a } c where
  base := rfl
  status := h
  faultcp := rfl
  digestr := by rw [readDigest_fst, readDigest_fst]; rfl
  cpr := rfl

/-! ## The marks of a store (20_memory.md R51) -/

theorem mem_noteStore_spoiled {a k : Nat} {c : Instance} :
    k ∈ (noteStore a c).spoiled ↔ k ∈ c.spoiled ∨ k ∈ openWindows a c := by
  simp only [noteStore, List.mem_append, List.mem_filter, Bool.not_eq_true', List.contains_eq_mem,
    decide_eq_false_iff_not]
  tauto

theorem mem_openWindows {a k : Nat} {c : Instance} {ptr len : Word}
    (hspan : (k, ptr, len) ∈
      pendingSpans (pendingWords c).length c.cp.toNat (pendingWords c))
    (ha : inSpan a ptr len = true) : k ∈ openWindows a c :=
  List.mem_map.2 ⟨(k, ptr, len), List.mem_filter.2 ⟨hspan, ha⟩, rfl⟩

/-- The walk over a whole command notes its span, if it has one, and goes on behind it. -/
theorem pendingSpans_encode {i : Instr} (fuel at_ : Nat) (rest : List Word)
    (h : i.wellFormed = true) :
    pendingSpans (fuel + 1) at_ (encode i ++ rest) =
      (spanOf i).toList.map (Prod.mk at_) ++ pendingSpans fuel (at_ + i.words) rest := by
  simp only [pendingSpans, decode_encode_append rest h]
  cases spanOf i <;> rfl

theorem pendingSpans_error {ws : List Word} {e : DecodeError} (fuel at_ : Nat)
    (h : decode ws = .error e) : pendingSpans fuel at_ ws = [] := by
  cases fuel with
  | zero => rfl
  | succ fuel => simp only [pendingSpans, h]

/-- The walk comes to every whole command that only whole commands stand before. -/
theorem mem_pendingSpans {before : List Instr} {i : Instr} {fuel : Nat} {ptr len : Word} (at_ : Nat)
    (rest : List Word) (hbefore : ∀ j ∈ before, j.wellFormed = true) (hi : i.wellFormed = true)
    (hspan : spanOf i = some (ptr, len)) (hfuel : before.length < fuel) :
    (at_ + (before.map Instr.words).sum, ptr, len) ∈
      pendingSpans fuel at_ (before.flatMap encode ++ (encode i ++ rest)) := by
  induction before generalizing at_ fuel with
  | nil =>
    obtain ⟨fuel, rfl⟩ := Nat.exists_eq_add_one_of_ne_zero hfuel.ne_bot
    rw [List.flatMap_nil, List.nil_append, pendingSpans_encode fuel at_ rest hi, hspan]
    exact List.mem_append_left _ (List.mem_singleton_self _)
  | cons j before ih =>
    obtain ⟨hj, hrest⟩ := List.forall_mem_cons.1 hbefore
    obtain ⟨fuel, rfl⟩ := Nat.exists_eq_add_one_of_ne_zero (Nat.ne_zero_of_lt hfuel)
    rw [List.flatMap_cons, List.append_assoc, pendingSpans_encode fuel at_ _ hj, List.map_cons,
      List.sum_cons, ← Nat.add_assoc]
    exact List.mem_append_right _ (ih _ hrest (Nat.lt_of_succ_lt_succ hfuel))

/-- Every command has at least its header word. -/
theorem length_le_length_flatMap_encode (is : List Instr) :
    is.length ≤ (is.flatMap encode).length := by
  rw [List.length_flatMap, ← List.length_map (f := fun i => (encode i).length)]
  refine List.length_le_sum_of_one_le _ (List.forall_mem_map.2 fun i _ => ?_)
  rw [encode_eq_cons]
  exact Nat.succ_pos _

/-! ## The obligations -/

/-- Settles O50: each register of the block by its offset, and the refusals by `registerAt_eq_error`. -/
theorem registerBlockMap : Obligations.RegisterBlockMap := by
  intro s hb
  refine ⟨fun v hp he hroom => hostWrite_cmd hb ?cmd,
    hostRead_block hb (by decide) registerAt_status rfl,
    hostRead_block hb (by decide) registerAt_faultcp rfl,
    fun d hp hd => hostRead_block hb (by decide) registerAt_digestr ?digest,
    hostRead_block hb (by decide) registerAt_cpr rfl,
    fun off ho width v h => hostAccess_refused hb ho h v, hostRead_cmd_refused hb,
    fun off ho v => hostWrite_readOnly hb v off ho⟩
  case cmd => rw [writeCmd, if_neg hp, if_neg (by simp [he]), if_pos hroom]
  case digest => rw [readRegister, readDigest_finished hp hd]

/-- Settles O51: the draw of `DIGESTR`, the refusals, and a read that goes by no accumulator. -/
theorem hostAccessRules : Obligations.HostAccessRules := by
  refine ⟨fun s hb hp => ?draw, fun s v hb => ⟨hostRead_cmd_refused hb, hostWrite_readOnly hb v,
    fun off ho width h => hostAccess_refused hb ho (h.imp_right .inr) v⟩,
    fun s addr width b p k0 k1 u a h =>
      readValue_hostRead_withInst (looksAlike_accumulators b p k0 k1 u h) addr width⟩
  case draw =>
    have hread : readRegister .digestr s.inst = .ok (nextDraw s.inst, countDraw s.inst) := by
      rw [readRegister, readDigest_draw hp]
    exact ⟨_, hostRead_block hb (by decide) registerAt_digestr hread, rfl⟩

/-- Settles O52: a FAULTED instance keeps its stream, and any other one takes the word at its end. -/
theorem cmdWordsAreDeliveredInOrder : Obligations.CmdWordsAreDeliveredInOrder := by
  intro c c' v h
  obtain ⟨hp, rfl⟩ | ⟨hp, -, hroom, rfl⟩ := writeCmd_cases h
  · exact ⟨fun _ => rfl, fun hlive => absurd hp hlive⟩
  · refine ⟨fun hfaulted => absurd hfaulted hp, fun _ hcp =>
      ⟨rfl, List.drop_append_of_le_length hcp, List.getElem?_concat_length, ?_⟩⟩
    rwa [List.length_append, List.length_singleton]

/-- Settles O53: the byte by `Memory.lookup_place`, and each instance by its marks. -/
theorem hostStorePlacesOneByte : Obligations.HostStorePlacesOneByte := by
  intro s a b k
  refine ⟨Memory.lookup_place s.mem a.toNat k b, rfl, rfl, List.length_map _, fun j c hc =>
    ⟨noteStore a.toNat c, ?_, rfl⟩⟩
  rw [hostStore, List.getElem?_map, hc, Option.map_some]

/-- Settles O54: the walk over the pending words comes to the command, and ends at words that are no whole
command. -/
theorem hostStoreSpoilsPendingSpans : Obligations.HostStoreSpoilsPendingSpans := by
  refine ⟨fun s a b before i rest ptr len hbefore hi hwords hspan hlow hhigh => ?marks,
    fun s a b e he => ?idle⟩
  case marks =>
    have hfuel : before.length < (pendingWords s.inst).length := by
      have hle := length_le_length_flatMap_encode before
      rw [hwords, List.append_assoc, List.length_append, encode_eq_cons, List.cons_append,
        List.length_cons]
      omega
    have hmem := mem_pendingSpans s.inst.cp.toNat rest hbefore hi hspan hfuel
    rw [← List.append_assoc, ← hwords] at hmem
    exact mem_noteStore_spoiled.2 (.inr (mem_openWindows hmem (by simp [inSpan, hlow, hhigh])))
  case idle =>
    show (noteStore a.toNat s.inst).spoiled = s.inst.spoiled
    simp only [noteStore, openWindows, pendingSpans_error _ _ he, List.filter_nil, List.map_nil,
      List.append_nil]

end Sys2Proof.Machine
end

section
/-! SUPPORT. The proofs about 30_encoding.md, section 5: which numbers are operands, and that every line
the assembler accepts gives well-formed commands. -/

namespace Sys2Proof

theorem EType.width_le (t : EType) : t.width ≤ 64 := by cases t <;> decide

end Sys2Proof

namespace Sys2Proof.Machine

/-! ## Rows of operands -/

/-- A row is accepted exactly when each of its entries is. -/
theorem mapM_eq_some_iff {α β : Type} {f : α → Option β} {xs : List α} {ys : List β} :
    xs.mapM f = some ys ↔ xs.map f = ys.map some := by
  induction xs generalizing ys with
  | nil => cases ys <;> simp
  | cons x xs ih =>
    cases ys <;> cases hx : f x <;>
      simp [List.mapM_cons, hx, ih, Option.bind_eq_some_iff, and_comm]

theorem length_eq_of_mapM_eq_some {α β : Type} {f : α → Option β} {xs : List α} {ys : List β}
    (h : xs.mapM f = some ys) : xs.length = ys.length := by
  simpa using congrArg List.length (mapM_eq_some_iff.1 h)

theorem exists_of_mapM_eq_some {α β : Type} {f : α → Option β} {xs : List α} {ys : List β} {y : β}
    (h : xs.mapM f = some ys) (hy : y ∈ ys) : ∃ x ∈ xs, f x = some y := by
  rw [← List.mem_map, mapM_eq_some_iff.1 h]
  exact List.mem_map_of_mem hy

theorem mapM_eq_none_of_mem {α β : Type} {f : α → Option β} {xs : List α} {x : α} (hx : x ∈ xs)
    (h : f x = none) : xs.mapM f = none := by
  cases hys : xs.mapM f with
  | none => rfl
  | some ys =>
    have hmem : none ∈ ys.map some := mapM_eq_some_iff.1 hys ▸ List.mem_map.2 ⟨x, hx, h⟩
    simp at hmem

/-! ## Numbers as operands (R73) -/

section
variable {t : EType} {n : Nat}

theorem toNat_ofNat_of_lt_width (h : n < 2 ^ t.width) : (BitVec.ofNat 64 n).toNat = n := by
  rw [BitVec.toNat_ofNat]
  exact Nat.mod_eq_of_lt (h.trans_le (Nat.pow_le_pow_right (by decide) t.width_le))

theorem elementOperand_plain_of_lt (h : n < 2 ^ t.width) :
    elementOperand t (.plain n) = some (BitVec.ofNat 64 n) := if_pos h

theorem elementOperand_plain_of_le (h : 2 ^ t.width ≤ n) : elementOperand t (.plain n) = none :=
  if_neg (not_lt.2 h)

theorem elementOperand_minus_of_le (hs : t.isSigned = true) (h1 : 1 ≤ n)
    (hn : n ≤ 2 ^ (t.width - 1)) :
    elementOperand t (.minus n) = some (BitVec.ofNat 64 (2 ^ t.width - n)) := if_pos ⟨hs, h1, hn⟩

theorem elementOperand_minus_eq_none (h : t.isSigned = false ∨ 2 ^ (t.width - 1) < n) :
    elementOperand t (.minus n) = none := by
  refine if_neg fun ⟨hs, _, hn⟩ => ?_
  obtain hu | hbig := h
  · exact Bool.false_ne_true (hu.symm.trans hs)
  · omega

theorem minus_lt_width (h1 : 1 ≤ n) : 2 ^ t.width - n < 2 ^ t.width :=
  Nat.sub_lt (Nat.two_pow_pos _) h1

/-- An accepted element is an element of the type. -/
theorem fits_of_elementOperand {o : Numeral} {e : Word} (h : elementOperand t o = some e) :
    t.fits e = true := by
  cases o with
  | plain n =>
    simp only [elementOperand] at h
    split_ifs at h with hn
    cases h
    simpa [EType.fits, toNat_ofNat_of_lt_width hn] using hn
  | minus n =>
    simp only [elementOperand] at h
    split_ifs at h with hn
    cases h
    have hlt := minus_lt_width (t := t) hn.2.1
    simpa only [EType.fits, toNat_ofNat_of_lt_width hlt, decide_eq_true_eq] using hlt

theorem wordOperand_plain_of_lt (h : n < 2 ^ 64) :
    wordOperand (.plain n) = some (BitVec.ofNat 64 n) := if_pos h

theorem wordOperand_plain_of_le (h : 2 ^ 64 ≤ n) : wordOperand (.plain n) = none :=
  if_neg (not_lt.2 h)

end

/-! ## The chunk form -/

section
variable {a : Alg} {t : EType} {n : Fin 7} {ops : List Numeral}

theorem assembleChunk_eq_none_of_length (h : ops.length ≠ 2 ^ n.val) :
    assembleChunk a t n ops = none := by
  unfold assembleChunk
  split
  · rename_i es hes
    exact if_neg fun hlen => h ((length_eq_of_mapM_eq_some hes).trans hlen)
  · rfl

theorem assembleChunk_eq_none_of_operand {o : Numeral} (ho : o ∈ ops)
    (h : elementOperand t o = none) : assembleChunk a t n ops = none := by
  rw [assembleChunk, mapM_eq_none_of_mem ho h]

theorem assembleChunk_eq_some {es : List Word} (h : ops.map (elementOperand t) = es.map some)
    (hlen : es.length = 2 ^ n.val) :
    assembleChunk a t n ops = some [absorbChunkInstr t n es a] := by
  rw [assembleChunk, mapM_eq_some_iff.2 h]
  exact if_pos hlen

end

/-! ## Well-formed commands only -/

/-- If a line is accepted, its commands are well-formed. -/
def GivesWellFormed (o : Option (List Instr)) : Prop :=
  ∀ is, o = some is → ∀ i ∈ is, i.wellFormed = true

theorem givesWellFormed_none : GivesWellFormed none := fun _ h => nomatch h

theorem givesWellFormed_some {is : List Instr} (h : ∀ i ∈ is, i.wellFormed = true) :
    GivesWellFormed (some is) := fun _ his => Option.some.inj his ▸ h

theorem givesWellFormed_bind {α : Type} {o : Option α} {f : α → Option (List Instr)}
    (h : ∀ x, GivesWellFormed (f x)) : GivesWellFormed (o.bind f) := by
  cases o with
  | none => exact givesWellFormed_none
  | some x => exact h x

theorem givesWellFormed_map {α : Type} {o : Option α} {f : α → List Instr}
    (h : ∀ x, ∀ i ∈ f x, i.wellFormed = true) : GivesWellFormed (o.map f) := by
  cases o with
  | none => exact givesWellFormed_none
  | some x => exact givesWellFormed_some (h x)

theorem wellFormed_initInstr (s0 s1 s2 s3 : Word) (a : Alg) :
    (initInstr s0 s1 s2 s3 a).wellFormed = true := by cases a <;> rfl

theorem wellFormed_absorbBytesInstr (ptr len : Word) (a : Alg) :
    (absorbBytesInstr ptr len a).wellFormed = true := by cases a <;> rfl

theorem wellFormed_finishInstr (a : Alg) : (finishInstr a).wellFormed = true := by cases a <;> rfl

theorem wellFormed_pseudoHashBytes (p : Config.Params) (a : Alg) (ptr len : Word) :
    ∀ i ∈ pseudoHashBytes p a ptr len, i.wellFormed = true := by
  simp [pseudoHashBytes, initWith, wellFormed_initInstr, wellFormed_absorbBytesInstr,
    wellFormed_finishInstr]

theorem wellFormed_pseudoAbsorbU64 (a : Alg) (v : Word) :
    ∀ i ∈ pseudoAbsorbU64 a v, i.wellFormed = true := by
  have hfits : EType.u64.fits v = true := decide_eq_true v.isLt
  simp [pseudoAbsorbU64, Instr.wellFormed_absorbChunkInstr, chunkWellFormed, hfits]

theorem assembleInit_givesWellFormed (p : Config.Params) (a : Alg) (ops : List Numeral) :
    GivesWellFormed (assembleInit p a ops) := by
  unfold assembleInit
  split
  · exact givesWellFormed_some (by simp [pseudoInit, initWith, wellFormed_initInstr])
  · split
    · exact givesWellFormed_some (by simp [wellFormed_initInstr])
    · exact givesWellFormed_none

theorem assembleChunk_givesWellFormed (a : Alg) (t : EType) (n : Fin 7) (ops : List Numeral) :
    GivesWellFormed (assembleChunk a t n ops) := by
  unfold assembleChunk
  split
  · rename_i es hes
    split_ifs with hlen
    · have hfits : es.all t.fits = true := List.all_eq_true.2 fun e he => by
        obtain ⟨o, -, ho⟩ := exists_of_mapM_eq_some hes he
        exact fits_of_elementOperand ho
      refine givesWellFormed_some fun i hi => ?_
      rw [List.mem_singleton.1 hi, Instr.wellFormed_absorbChunkInstr]
      exact chunkWellFormed_iff.2 ⟨hlen, hfits⟩
    · exact givesWellFormed_none
  · exact givesWellFormed_none

/-- Form by form, along the name of the command. -/
theorem assembleCommand_givesWellFormed (p : Config.Params) (name : List (List Char))
    (ops : List Numeral) : GivesWellFormed (assembleCommand p name ops) := by
  unfold assembleCommand
  split
  · split_ifs
    · exact givesWellFormed_bind fun a => assembleInit_givesWellFormed p a ops
    · exact givesWellFormed_bind fun a => givesWellFormed_some (by simp [wellFormed_finishInstr])
    · exact givesWellFormed_bind fun _ => givesWellFormed_none
    · exact givesWellFormed_map fun q => wellFormed_pseudoHashBytes p .fnv1a q.1 q.2
    · exact givesWellFormed_none
  · split_ifs
    · exact givesWellFormed_bind fun a => givesWellFormed_map fun q => by
        simp [wellFormed_absorbBytesInstr]
    · exact givesWellFormed_bind fun a => givesWellFormed_map fun q =>
        wellFormed_pseudoHashBytes p a q.1 q.2
    · refine givesWellFormed_bind fun a => ?_
      split
      · exact givesWellFormed_some (wellFormed_pseudoAbsorbU64 a _)
      · exact givesWellFormed_none
    · exact givesWellFormed_none
  · split_ifs
    · exact givesWellFormed_bind fun a => givesWellFormed_bind fun q =>
        assembleChunk_givesWellFormed a q.1 q.2 ops
    · exact givesWellFormed_none
  · exact givesWellFormed_none

theorem assembleLine_givesWellFormed (p : Config.Params) (line : List Char) :
    GivesWellFormed (assembleLine p line) := by
  unfold assembleLine
  simp only
  split
  · exact givesWellFormed_some (by simp)
  · exact givesWellFormed_bind fun ops => assembleCommand_givesWellFormed p _ ops

/-! ## A wrong number of operands -/

section
variable {p : Config.Params} {x : List Char} {a : Alg} {ops : List Numeral}

theorem assembleCommand_chunk (hx : algName x = some a) {shape : List Char} {t : EType} {n : Fin 7}
    (hshape : chunkShape shape = some (t, n)) :
    assembleCommand p ["absorb".toList, "chunk".toList, x, shape] ops = assembleChunk a t n ops := by
  simp only [assembleCommand, and_self, if_true, hx, hshape, Option.bind_some]

theorem assembleInit_eq_none (h0 : ops.length ≠ 0) (h4 : ops.length ≠ 4) :
    assembleInit p a ops = none := by
  unfold assembleInit
  split
  · exact absurd rfl h0
  · split
    · rename_i hops
      exact absurd (length_eq_of_mapM_eq_some hops) h4
    · rfl

theorem spanOperands_eq_none (h : ops.length ≠ 2) : spanOperands ops = none := by
  unfold spanOperands
  split
  · rename_i hops
    exact absurd (length_eq_of_mapM_eq_some hops) h
  · rfl

theorem assembleCommand_init (hx : algName x = some a) :
    assembleCommand p ["init".toList, x] ops = assembleInit p a ops := by
  simp only [assembleCommand, if_true, hx, Option.bind_some]

theorem assembleCommand_absorbBytes_eq_none (h : ops.length ≠ 2) :
    assembleCommand p ["absorb".toList, "bytes".toList, x] ops = none := by
  simp [assembleCommand, spanOperands_eq_none h]

theorem assembleCommand_finish_eq_none (h : ops.length ≠ 0) :
    assembleCommand p ["finish".toList, x] ops = none := by
  have hops : ops.isEmpty = false := by simpa using h
  simp [assembleCommand, hops]

end

/-! ## The obligations -/

/-- Settles O55: the lines by their forms, the operands by their ranges, and the wrong numbers of operands by
the length of a row that is accepted. -/
theorem assemblerGivesWellFormed : Obligations.AssemblerGivesWellFormed := by
  refine ⟨assembleLine_givesWellFormed, fun t n => ⟨fun h => ?plain, elementOperand_plain_of_le,
      fun hs h1 hn => ?minus, elementOperand_minus_eq_none⟩,
    fun n => ⟨fun h => ?word, wordOperand_plain_of_le, rfl⟩,
    fun a t n ops => ⟨assembleChunk_eq_none_of_length,
      fun ⟨o, ho, hbad⟩ => assembleChunk_eq_none_of_operand ho hbad,
      fun es => assembleChunk_eq_some⟩,
    fun p x a ops hx => ⟨fun shape t n => assembleCommand_chunk hx,
      fun h0 h4 => (assembleCommand_init hx).trans (assembleInit_eq_none h0 h4),
      assembleCommand_absorbBytes_eq_none, assembleCommand_finish_eq_none⟩⟩
  case plain => exact ⟨_, elementOperand_plain_of_lt h, toNat_ofNat_of_lt_width h⟩
  case minus =>
    exact ⟨_, elementOperand_minus_of_le hs h1 hn, toNat_ofNat_of_lt_width (minus_lt_width h1)⟩
  case word => exact ⟨_, wordOperand_plain_of_lt h, toNat_ofNat_of_lt_width (t := .u64) h⟩

/-- Settles O56, line by line, by evaluation. -/
theorem assemblyExamples : Obligations.AssemblyExamples :=
  ⟨by decide, by decide, by decide, by decide, by decide, by decide⟩

end Sys2Proof.Machine
end
